-- ==== Sys2Proof/Word.lean ====
section
/-! DEFINITION. The two word types of the P264: the byte of the station link and the station time. -/

namespace Sys2Proof

/-- One byte of a frame on the station link (R194). -/
abbrev Byte := BitVec 8

/-- Station time: a millisecond count that wraps to 0 after 4,294,967,295 (R1). -/
abbrev Time := BitVec 32

end Sys2Proof
end

