-- ==== Sys2Proof/Syntax.lean ====
section
/-! DEFINITION. The names the spec uses for heads, zones and functions, the records that requests carry, and the
commands of the part: one constructor of `Instr` for each row of spec/opcode_table.json. -/

namespace Sys2Proof

/-- The two carrier heads (00 section 7). -/
inductive Head where
  | a
  | b
deriving DecidableEq, Repr, Inhabited

/-- The six pressure zones of a head, centre to edge (00 section 7). -/
inductive Zone where
  | z1 | z2 | z3 | z4 | z5 | z6
deriving DecidableEq, Repr, Inhabited

/-- A zone, or the retaining ring: what a head presses with. -/
inductive Area where
  | zone (z : Zone)
  | ring
deriving DecidableEq, Repr, Inhabited

/-- The 21 functions of the station (00 section 7): seven pressure functions of each head, and the station functions. -/
inductive Fn where
  | head (h : Head) (a : Area)
  | dose1 | dose2 | dose3 | rinse | arm | force | disk
deriving DecidableEq, Repr, Inhabited

/-- The two ports of the part. -/
inductive PortName where
  | u
  | d
deriving DecidableEq, Repr, Inhabited

/-- The 16 condition sources of R138, in their numbered order. -/
inductive SourceId where
  | supervisionLoss | portDLoss | pressureDevA | pressureDevB | stepTimeoutA | stepTimeoutB
  | sampleGapA | sampleGapB | flowDev | armStall | setpointMismatch | padWorn | diskWorn
  | forwardOverflow | storeFault | limitReached
deriving DecidableEq, Repr, Inhabited

/-- One thing for each head. -/
structure Pair (α : Type) where
  a : α
  b : α
deriving DecidableEq, Repr, Inhabited

/-- One thing for each of Z1 to Z6. -/
structure PerZone (α : Type) where
  z1 : α
  z2 : α
  z3 : α
  z4 : α
  z5 : α
  z6 : α
deriving DecidableEq, Repr, Inhabited

/-- One thing for each of Z1 to Z6 and RING. -/
structure PerArea (α : Type) where
  zones : PerZone α
  ring  : α
deriving DecidableEq, Repr, Inhabited

/-- One thing for each of the 21 functions. -/
structure PerFn (α : Type) where
  ha    : PerArea α
  hb    : PerArea α
  dose1 : α
  dose2 : α
  dose3 : α
  rinse : α
  arm   : α
  force : α
  disk  : α
deriving DecidableEq, Repr, Inhabited

/-- One thing for each of the 16 condition sources. -/
structure PerSource (α : Type) where
  supervisionLoss  : α
  portDLoss        : α
  pressureDevA     : α
  pressureDevB     : α
  stepTimeoutA     : α
  stepTimeoutB     : α
  sampleGapA       : α
  sampleGapB       : α
  flowDev          : α
  armStall         : α
  setpointMismatch : α
  padWorn          : α
  diskWorn         : α
  forwardOverflow  : α
  storeFault       : α
  limitReached     : α
deriving DecidableEq, Repr, Inhabited

/-- Minimum, hold value and maximum of a zone or of the ring in the limit block (R172). -/
structure AreaLimit where
  min  : Nat
  max  : Nat
  hold : Nat
deriving DecidableEq, Repr, Inhabited

/-- The limit block: the fields of R172, in its order. -/
structure LimitBlock where
  areas              : PerArea AreaLimit
  pressureBand       : Nat
  pressureDwell      : Nat
  dose1Max           : Nat
  dose2Max           : Nat
  dose3Max           : Nat
  totalMax           : Nat
  rinseMax           : Nat
  holdRinse          : Nat
  flowBand           : Nat
  flowDwell          : Nat
  forceMax           : Nat
  diskMax            : Nat
  armMin             : Nat
  armMax             : Nat
  park               : Nat
  armTolerance       : Nat
  arrivalTimeout     : Nat
  supervisionTimeout : Nat
  sampleGapTimeout   : Nat
  padLife            : Nat
  diskLife           : Nat
deriving DecidableEq, Repr, Inhabited

/-- A request as the management unit takes it: the source address of its frame, its tag, and its argument bytes, which
are the payload from byte 2 on (R161, R197). -/
structure Request where
  origin : Nat
  tag    : Byte
  args   : List Byte
deriving DecidableEq, Repr, Inhabited

/-- The commands of the part: one constructor per row of spec/opcode_table.json, in the table's order. -/
inductive Instr where
  | identify (r : Request)
  | heartbeat (r : Request)
  | readState (r : Request)
  | setMode (r : Request)
  | writeLimits (r : Request)
  | readLimits (r : Request)
  | mapFunction (r : Request)
  | loadZoneMap (r : Request)
  | loadStep (r : Request)
  | loadBlend (r : Request)
  | loadConditioning (r : Request)
  | loadPadService (r : Request)
  | loadProgram (r : Request)
  | startHead (r : Request)
  | pauseHead (r : Request)
  | resumeHead (r : Request)
  | skipStep (r : Request)
  | abortHead (r : Request)
  | readResult (r : Request)
  | readProfile (r : Request)
  | setSource (r : Request)
  | clearSource (r : Request)
  | simulateSource (r : Request)
  | readConditions (r : Request)
  | setLevel (r : Request)
  | resumeLevel (r : Request)
  | releaseHold (r : Request)
  | abortAll (r : Request)
  | storeRead (r : Request)
  | storeStage (r : Request)
  | storeCommit (r : Request)
  | storeReload (r : Request)
  | replaceConsumable (r : Request)
  | stationReset (r : Request)
  | unknownRequest (origin : Nat) (payload : List Byte)
  | portUReceive (bytes : List Byte)
  | portDReceive (bytes : List Byte)
  | lineLoss (p : PortName)
  | transmitEnd (p : PortName)
  | stepTimerExpiry (h : Head)
  | sampleGapExpiry (h : Head)
  | arrivalTimerExpiry
  | dwellTimerExpiry
  | deviationDwellExpiry (f : Fn)
  | supervisionExpiry
  | commitCompletion
  | hardwareReset
  | resetRelease (straps : BitVec 6) (rateHigh : Bool)
  | storeLoadDone
deriving DecidableEq, Repr

end Sys2Proof
end

