-- ==== Sys2Proof/Decode.lean ====
section
/-! DEFINITION. The command that a word spells by the bits of spec/opcode_table.json. No row of that table gives bits
(the part's commands are steps of a station controller, not words), so no word spells a command. Requests are decoded
from the bytes of their frames: see Machine/Operands.lean and Machine/Catalogue.lean. -/

namespace Sys2Proof

/-- The command that the word `w` of `nbits` bits spells: none, for the table gives no row any bits. -/
def decodeTableWord (_nbits _w : Nat) : Option Instr := none

end Sys2Proof
end

