-- ==== Sys2Proof/Config.lean ====
section
/-! DEFINITION. The sizes and codes the spec fixes for the part, and the FREE VALUES: constants without a body that
stand where the spec leaves a value or an order open, so that no proof can rest on one. -/

namespace Sys2Proof.Config

/-- Downbound forward queue: 8 frames (R127). -/
def downCapacity : Nat := 8
/-- Upbound forward queue: 16 frames (R127). -/
def upCapacity : Nat := 16
/-- Request queue: 4 frames (R125). -/
def requestCapacity : Nat := 4
/-- Response queue: 4 responses (R162). -/
def responseCapacity : Nat := 4
/-- Event queue: 32 records (R177). -/
def eventCapacity : Nat := 32
/-- Sweep history: 8 records (R46). -/
def historyCapacity : Nat := 8
/-- The event records one EVENT frame carries at most (R132). -/
def eventsPerFrame : Nat := 4
/-- The highest level the tool controller sets, and the highest at which it may release a hold or reset (R154, R156,
R179). -/
def toolLevel : Nat := 10
/-- Vendor, family and part code and design revision that IDENTIFY answers (R164). -/
def vendorCode : Nat := 4117
def familyCode : Nat := 80
def partCode : Nat := 264
def revision : Nat := 1
/-- The wear counters stop here (R94). -/
def wearMax : Nat := 4000000000
/-- Pad count, disk count and pass count stop here, and a zone's sample count (R97, R88, R40). -/
def countMax : Nat := 65535
/-- Largest 4-byte count: sweep counter and wafer count (R45, R184). -/
def longMax : Nat := 4294967295
/-- Finish times are clamped to this many ms (R60). -/
def finishMax : Nat := 3600000

/-- FREE VALUE. The choice made at the n-th point where the spec leaves an order open (logs 3, 11, 12). -/
opaque choice : Nat → Nat

/-- FREE VALUE. What a block would read from the limit block while it is unwritten. R173 says that no block does; the
constant makes the reading functions total (log 17). -/
opaque unwrittenLimits : LimitBlock

/-- FREE VALUE. What zone control would read for a commanded pressure that is absent; it is never absent in POLISHING
(R7, R11) (log 18). -/
opaque absentPressure : Nat

/-- FREE VALUE. The four bytes sent for a duration that four bytes cannot hold; the spec states none (log 16). -/
opaque longDuration : Nat → BitVec 32

/-- FREE VALUE. The point bytes STORE_READ sends for a SENSOR_CAL working copy that is not valid (log 19). -/
opaque invalidCalByte : Nat → Byte

end Sys2Proof.Config
end

