-- ==== Sys2Proof/Machine/Tables.lean ====
section
/-! DEFINITION. Reading and writing the small tables of the part: one entry per head, zone, function or source, and the
indexed tables whose entries are empty or loaded. -/

namespace Sys2Proof

def Pair.get {α : Type} (p : Pair α) : Head → α
  | .a => p.a
  | .b => p.b

def Pair.set {α : Type} (p : Pair α) (h : Head) (x : α) : Pair α :=
  match h with
  | .a => { p with a := x }
  | .b => { p with b := x }

/-- The other head. -/
def Head.other : Head → Head
  | .a => .b
  | .b => .a

/-- Z1 to Z6 in order. -/
def Zone.all : List Zone := [.z1, .z2, .z3, .z4, .z5, .z6]

def PerZone.get {α : Type} (t : PerZone α) : Zone → α
  | .z1 => t.z1
  | .z2 => t.z2
  | .z3 => t.z3
  | .z4 => t.z4
  | .z5 => t.z5
  | .z6 => t.z6

def PerZone.set {α : Type} (t : PerZone α) (z : Zone) (x : α) : PerZone α :=
  match z with
  | .z1 => { t with z1 := x }
  | .z2 => { t with z2 := x }
  | .z3 => { t with z3 := x }
  | .z4 => { t with z4 := x }
  | .z5 => { t with z5 := x }
  | .z6 => { t with z6 := x }

/-- The table whose entry for each zone is what `f` gives it. -/
def PerZone.tabulate {α : Type} (f : Zone → α) : PerZone α :=
  ⟨f .z1, f .z2, f .z3, f .z4, f .z5, f .z6⟩

/-- The same entry for every zone. -/
def PerZone.fill {α : Type} (x : α) : PerZone α := PerZone.tabulate fun _ => x

/-- The entries in the order Z1 to Z6. -/
def PerZone.toList {α : Type} (t : PerZone α) : List α := Zone.all.map t.get

/-- Z1 to Z6, then RING. -/
def Area.all : List Area :=
  [.zone .z1, .zone .z2, .zone .z3, .zone .z4, .zone .z5, .zone .z6, .ring]

def PerArea.get {α : Type} (t : PerArea α) : Area → α
  | .zone z => t.zones.get z
  | .ring => t.ring

def PerArea.set {α : Type} (t : PerArea α) (a : Area) (x : α) : PerArea α :=
  match a with
  | .zone z => { t with zones := t.zones.set z x }
  | .ring => { t with ring := x }

def PerArea.tabulate {α : Type} (f : Area → α) : PerArea α :=
  ⟨PerZone.tabulate fun z => f (.zone z), f .ring⟩

def PerArea.fill {α : Type} (x : α) : PerArea α := PerArea.tabulate fun _ => x

def PerArea.toList {α : Type} (t : PerArea α) : List α := Area.all.map t.get

/-- The 21 functions in the order of R109 and of their codes (R195). -/
def Fn.all : List Fn :=
  Area.all.map (Fn.head .a) ++ Area.all.map (Fn.head .b) ++
    [.dose1, .dose2, .dose3, .rinse, .arm, .force, .disk]

def PerFn.get {α : Type} (t : PerFn α) : Fn → α
  | .head .a x => t.ha.get x
  | .head .b x => t.hb.get x
  | .dose1 => t.dose1
  | .dose2 => t.dose2
  | .dose3 => t.dose3
  | .rinse => t.rinse
  | .arm => t.arm
  | .force => t.force
  | .disk => t.disk

def PerFn.set {α : Type} (t : PerFn α) (f : Fn) (v : α) : PerFn α :=
  match f with
  | .head .a x => { t with ha := t.ha.set x v }
  | .head .b x => { t with hb := t.hb.set x v }
  | .dose1 => { t with dose1 := v }
  | .dose2 => { t with dose2 := v }
  | .dose3 => { t with dose3 := v }
  | .rinse => { t with rinse := v }
  | .arm => { t with arm := v }
  | .force => { t with force := v }
  | .disk => { t with disk := v }

def PerFn.tabulate {α : Type} (f : Fn → α) : PerFn α :=
  { ha := PerArea.tabulate fun x => f (.head .a x)
    hb := PerArea.tabulate fun x => f (.head .b x)
    dose1 := f .dose1, dose2 := f .dose2, dose3 := f .dose3, rinse := f .rinse
    arm := f .arm, force := f .force, disk := f .disk }

def PerFn.fill {α : Type} (x : α) : PerFn α := PerFn.tabulate fun _ => x

def PerFn.toList {α : Type} (t : PerFn α) : List α := Fn.all.map t.get

/-- The 16 sources in numbered order. -/
def SourceId.all : List SourceId :=
  [.supervisionLoss, .portDLoss, .pressureDevA, .pressureDevB, .stepTimeoutA, .stepTimeoutB, .sampleGapA,
   .sampleGapB, .flowDev, .armStall, .setpointMismatch, .padWorn, .diskWorn, .forwardOverflow, .storeFault,
   .limitReached]

def PerSource.get {α : Type} (t : PerSource α) : SourceId → α
  | .supervisionLoss => t.supervisionLoss
  | .portDLoss => t.portDLoss
  | .pressureDevA => t.pressureDevA
  | .pressureDevB => t.pressureDevB
  | .stepTimeoutA => t.stepTimeoutA
  | .stepTimeoutB => t.stepTimeoutB
  | .sampleGapA => t.sampleGapA
  | .sampleGapB => t.sampleGapB
  | .flowDev => t.flowDev
  | .armStall => t.armStall
  | .setpointMismatch => t.setpointMismatch
  | .padWorn => t.padWorn
  | .diskWorn => t.diskWorn
  | .forwardOverflow => t.forwardOverflow
  | .storeFault => t.storeFault
  | .limitReached => t.limitReached

def PerSource.set {α : Type} (t : PerSource α) (k : SourceId) (x : α) : PerSource α :=
  match k with
  | .supervisionLoss => { t with supervisionLoss := x }
  | .portDLoss => { t with portDLoss := x }
  | .pressureDevA => { t with pressureDevA := x }
  | .pressureDevB => { t with pressureDevB := x }
  | .stepTimeoutA => { t with stepTimeoutA := x }
  | .stepTimeoutB => { t with stepTimeoutB := x }
  | .sampleGapA => { t with sampleGapA := x }
  | .sampleGapB => { t with sampleGapB := x }
  | .flowDev => { t with flowDev := x }
  | .armStall => { t with armStall := x }
  | .setpointMismatch => { t with setpointMismatch := x }
  | .padWorn => { t with padWorn := x }
  | .diskWorn => { t with diskWorn := x }
  | .forwardOverflow => { t with forwardOverflow := x }
  | .storeFault => { t with storeFault := x }
  | .limitReached => { t with limitReached := x }

def PerSource.tabulate {α : Type} (f : SourceId → α) : PerSource α :=
  { supervisionLoss := f .supervisionLoss, portDLoss := f .portDLoss, pressureDevA := f .pressureDevA
    pressureDevB := f .pressureDevB, stepTimeoutA := f .stepTimeoutA, stepTimeoutB := f .stepTimeoutB
    sampleGapA := f .sampleGapA, sampleGapB := f .sampleGapB, flowDev := f .flowDev, armStall := f .armStall
    setpointMismatch := f .setpointMismatch, padWorn := f .padWorn, diskWorn := f .diskWorn
    forwardOverflow := f .forwardOverflow, storeFault := f .storeFault, limitReached := f .limitReached }

/-- An indexed table whose entries are empty (`none`, and every index past the end) or loaded. -/
abbrev Table (α : Type) := List (Option α)

/-- What a table holds at an index. -/
def tableGet {α : Type} : Table α → Nat → Option α
  | [], _ => none
  | x :: _, 0 => x
  | _ :: t, i + 1 => tableGet t i

/-- The table with `v` loaded at an index and every other index as it was. -/
def tablePut {α : Type} : Table α → Nat → α → Table α
  | [], 0, v => [some v]
  | [], i + 1, v => none :: tablePut [] i v
  | _ :: t, 0, v => some v :: t
  | x :: t, i + 1, v => x :: tablePut t i v

end Sys2Proof
end

