-- ==== Sys2Proof/Machine/Types.lean ====
section
/-! DEFINITION. The data types of the blocks of the part: what each block holds, as plain data. -/

namespace Sys2Proof.Machine

/-- Hardware reset asserted (the bypass switch closed); released with the store load running (the switch still
closed); running (R135, R136). -/
inductive Phase where
  | asserted | loading | running
deriving DecidableEq, Repr

/-- The link rate the strap selects (R136). -/
inductive LinkRate where
  | mbit10 | mbit25
deriving DecidableEq, Repr

/-- Time base, straps and reset (R1, R135, R136). -/
structure TimeBase where
  phase   : Phase
  time    : Time
  ownAddr : Nat
  rate    : LinkRate
deriving DecidableEq, Repr

/-- The two classes of traffic of a transmitter (R129). -/
inductive TxClass where
  | forward | own
deriving DecidableEq, Repr

/-- Link state of a port, with the recovery count it has while OFFLINE (R122). -/
inductive LinkState where
  | online
  | offline (recovery : Nat)
deriving DecidableEq, Repr

/-- A transmitter is free, or busy with the frame on the wire (R129, R133). -/
inductive Transmitter where
  | free
  | busy (frame : List Byte)
deriving DecidableEq, Repr

/-- One port (R122, R129). -/
structure PortState where
  link   : LinkState
  streak : Nat
  tx     : Transmitter
  last   : TxClass
deriving DecidableEq, Repr

/-- The two forward queues, oldest frame first (R127). -/
structure Forwarding where
  down : List (List Byte)
  up   : List (List Byte)
deriving DecidableEq, Repr

/-- A node channel: a node address 1 to 61 and a channel number 0 to 7 (R100). -/
structure NodeChannel where
  node    : Nat
  channel : Nat
deriving DecidableEq, Repr

/-- A STATUS record as the function map keeps it (R100). -/
structure NodeStatus where
  ready    : Bool
  applied  : Nat
  measured : Nat
deriving DecidableEq, Repr

/-- The last setpoint record for a function that left Port D: its node value and function value (R110). -/
structure LastTx where
  node  : Nat
  value : Int
deriving DecidableEq, Repr

/-- Deviation state; the dwell timer runs exactly in DWELL (R114). -/
inductive DevState where
  | inBand
  | dwell (deadline : Time)
  | deviated
deriving DecidableEq, Repr

/-- What the function map keeps for a function (R100). -/
structure FnState where
  assign  : Option NodeChannel
  status  : Option NodeStatus
  ready   : Bool
  lastTx  : Option LastTx
  echo    : Nat
  dev     : DevState
  clamped : Bool
deriving DecidableEq, Repr

/-- The function map (R100). -/
structure FunctionMap where
  fns    : PerFn FnState
  sensor : Option NodeChannel
deriving DecidableEq, Repr

/-- A pending setpoint: a function value and its write time (R108). -/
structure Slot where
  value   : Nat
  written : Time
deriving DecidableEq, Repr

/-- Sum and count of a zone in an open sweep (R40). -/
structure ZoneSum where
  sum   : Nat
  count : Nat
deriving DecidableEq, Repr

/-- A zone present in a sweep record (R44). -/
structure ZoneMean where
  mean  : Nat
  count : Nat
deriving DecidableEq, Repr

/-- A sweep record (R44). -/
structure SweepRecord where
  number : Nat
  closed : Time
  zones  : PerZone (Option ZoneMean)
deriving DecidableEq, Repr

/-- The sample unit's state for one head (R37, R40, R45, R46). A map entry `none` is X. -/
structure Sampler where
  zoneMap   : Option (List (Option Zone))
  openSweep : Option (PerZone ZoneSum)
  counter   : Nat
  history   : List SweepRecord
deriving DecidableEq, Repr

/-- The eight head states (01 section 1.3). -/
inductive HeadState where
  | empty | ready | waitPad | polishing | paused | hold | done | aborted
deriving DecidableEq, Repr

/-- The step timer (R12). -/
inductive StepTimer where
  | stopped
  | running (deadline : Time)
  | frozen (remaining : Nat)
  | expired
deriving DecidableEq, Repr

/-- What ended a step (R26). -/
inductive EndCause where
  | time | endpoint | skip | abort
deriving DecidableEq, Repr

/-- One step result (R26). -/
structure StepResult where
  step     : Nat
  cause    : EndCause
  duration : Nat
  sweeps   : Nat
  cleared  : PerZone Bool
  means    : PerZone (Option Nat)
deriving DecidableEq, Repr

/-- The in-progress part of the result record (R25, R26): the step index, the polishing time of the closed intervals,
the sweep count, the start of the open interval, and whether the step has had its POLISHING entry. -/
structure InProgress where
  step     : Nat
  time     : Nat
  sweeps   : Nat
  interval : Option Time
  polished : Bool
deriving DecidableEq, Repr

/-- A head sequencer (chapter 1). -/
structure Sequencer where
  state     : HeadState
  program   : Option (List Nat)
  position  : Option Nat
  timer     : StepTimer
  gap       : Option Time
  confirm   : PerZone Nat
  cleared   : PerZone Bool
  commanded : PerArea (Option Nat)
  results   : List StepResult
  current   : Option InProgress
deriving DecidableEq, Repr

/-- What ends a step (R2). -/
inductive EndMode where
  | time | endpoint | endpointOrTime
deriving DecidableEq, Repr

/-- Effective bounds of a zone or the ring (R5). -/
structure Bounds where
  lo : Nat
  hi : Nat
deriving DecidableEq, Repr

/-- The control section of a step (R2). -/
structure ControlSection where
  gain    : Nat
  maxStep : Nat
  minRate : Nat
  depth   : Nat
deriving DecidableEq, Repr

/-- Target and cleared pressure of a zone (R2). -/
structure ZoneTarget where
  target  : Option Nat
  cleared : Option Nat
deriving DecidableEq, Repr

/-- The endpoint section of a step (R2). -/
structure EndpointSection where
  zones   : PerZone ZoneTarget
  margin  : Nat
  confirm : Nat
deriving DecidableEq, Repr

/-- A step record (R2). -/
structure StepRecord where
  endMode    : EndMode
  limit      : Nat
  base       : PerArea Nat
  bounds     : PerArea Bounds
  minSamples : Nat
  control    : Option ControlSection
  endpoint   : Option EndpointSection
  pad        : Option Nat
deriving DecidableEq, Repr

/-- Status of a zone in a computation (R58 to R60). -/
inductive ZoneStatus where
  | noTarget | cleared | absent | oneRecord | zeroInterval | slow | corrected
deriving DecidableEq, Repr

/-- Outcome of a computation (R61). -/
inductive ControlOutcome where
  | tooFew | noReference | applied
deriving DecidableEq, Repr

/-- A zone entry of a computation, with the optional fields of R66. -/
structure ZoneEntry where
  status       : ZoneStatus
  oNumber      : Option Nat
  rate         : Option Int
  remaining    : Option Nat
  finish       : Option Nat
  before       : Nat
  ideal        : Option Nat
  after        : Option Nat
  stepLimited  : Option Bool
  boundClamped : Option Bool
deriving DecidableEq, Repr

/-- The last computation of a head (R66). -/
structure Computation where
  number    : Nat
  closed    : Time
  window    : Nat
  outcome   : ControlOutcome
  reference : Option Nat
  zones     : PerZone ZoneEntry
deriving DecidableEq, Repr

/-- A pad service: the blend and the conditioning program it names (R70). -/
structure PadService where
  blend   : Option Nat
  program : Option Nat
deriving DecidableEq, Repr

/-- The service while GRANTED (R72). -/
structure Grant where
  entry   : Nat
  holders : Pair Bool
  time    : Time
deriving DecidableEq, Repr

/-- The pad service arbiter (R70, R72); the service is FREE when `service` is none. -/
structure Arbiter where
  table   : Table PadService
  service : Option Grant
  waiting : List (Head × Nat)
  hold    : Bool
deriving DecidableEq, Repr

/-- A blend (R81). -/
structure Blend where
  flow   : Nat
  ratio1 : Nat
  ratio2 : Nat
  ratio3 : Nat
  rinse  : Nat
deriving DecidableEq, Repr

/-- Four dosing setpoints (R82). -/
structure Dose where
  dose1 : Nat
  dose2 : Nat
  dose3 : Nat
  rinse : Nat
deriving DecidableEq, Repr

/-- The dosing unit (R81, R82). -/
structure DosingUnit where
  blends  : Table Blend
  current : Option Dose
deriving DecidableEq, Repr

/-- A segment of a conditioning program (R86). -/
structure Segment where
  position : Nat
  dwell    : Nat
deriving DecidableEq, Repr

/-- A conditioning program (R86). -/
structure CondProgram where
  force    : Nat
  speed    : Nat
  segments : List Segment
deriving DecidableEq, Repr

/-- TRAVEL with the arrival timer RUNNING to a deadline or EXPIRED (`none`), or DWELL with the dwell timer (R88). -/
inductive CondPhase where
  | travel (arrival : Option Time)
  | dwell (deadline : Time)
deriving DecidableEq, Repr

/-- The conditioner while RUNNING (R88). -/
structure CondRun where
  program : Nat
  force   : Nat
  speed   : Nat
  segment : Nat
  phase   : CondPhase
  target  : Nat
  passes  : Nat
deriving DecidableEq, Repr

/-- The conditioner unit (R86, R88, R94, R96); IDLE when `run` is none. -/
structure Conditioner where
  programs : Table CondProgram
  run      : Option CondRun
  padRem   : Nat
  diskRem  : Nat
  padWorn  : Bool
  diskWorn : Bool
deriving DecidableEq, Repr

/-- State of a condition source (R138). -/
inductive SourceState where
  | idle | pending | served
deriving DecidableEq, Repr

/-- Action of a condition source (R138). -/
inductive Action where
  | note | pause | hold | reset
deriving DecidableEq, Repr

/-- The four stored records (R183). -/
inductive RecordName where
  | sensorCal | channelCal | wear | protect
deriving DecidableEq, Repr

/-- The two forward queues as FORWARD_OVERFLOW names them (R128). -/
inductive QueueName where
  | downbound | upbound
deriving DecidableEq, Repr

/-- The data of an occurrence or a presence (R139, R152). -/
inductive SourceData where
  | function (f : Fn)
  | step (index : Nat)
  | arm (program segment target : Nat)
  | mismatch (f : Fn) (applied transmitted : Nat)
  | wear (counter : Nat)
  | queue (q : QueueName)
  | record (r : RecordName)
  | limit (h : Head) (z : Zone) (unclamped : Int)
  | simulated (h : Option Head) (value : Nat)
deriving DecidableEq, Repr

/-- A condition source (R138). `real` and `sim` are used by level sources alone. -/
structure Source where
  state    : SourceState
  enabled  : Bool
  severity : Nat
  action   : Action
  data     : Option SourceData
  real     : Bool
  sim      : Bool
deriving DecidableEq, Repr

/-- The condition unit; the level stack stands bottom first (R138, R142). -/
structure ConditionUnit where
  sources : PerSource Source
  level   : Nat
  stack   : List Nat
deriving DecidableEq, Repr

/-- Station mode (R168). -/
inductive Mode where
  | transparent | active
deriving DecidableEq, Repr

/-- Outcome of a request (09 section 9.1). -/
inductive OutcomeCode where
  | done | busy | invalid | state | mode | origin | protected_ | notReady | sequence | unknown
deriving DecidableEq, Repr

/-- A response in the response queue (R162); its results are the bytes R197 lays out. -/
structure Response where
  dest    : Nat
  tag     : Byte
  outcome : OutcomeCode
  results : List Byte
deriving DecidableEq, Repr

/-- A frame in the request queue: its source address and its payload (R125). -/
structure QueuedRequest where
  source  : Nat
  payload : List Byte
deriving DecidableEq, Repr

/-- The fourteen kinds of event record (R178). -/
inductive EventKind where
  | started | modeChanged | stepEntered | padGranted | zoneCleared | headEndpoint | stepEnded | headDone
  | headAborted | conditionTaken | stationHold | holdReleased | stationReset | storeCommitted
deriving DecidableEq, Repr

/-- An event record (R178). -/
structure EventRecord where
  kind          : EventKind
  head          : Option Head
  time          : Time
  data          : List (BitVec 32)
  droppedBefore : Bool
deriving DecidableEq, Repr

/-- The management unit (chapter 9). `supTimer` is none while the supervision timer is stopped; `limits` is none while
the limit block is unwritten. `resetTaken` is the model's own: a station reset was performed since the last request was
taken (log 26). -/
structure Management where
  mode       : Mode
  requests   : List QueuedRequest
  responses  : List Response
  heldBack   : Option Response
  events     : List EventRecord
  dropped    : Bool
  supTimer   : Option Time
  supLoss    : Bool
  limits     : Option LimitBlock
  resetTaken : Bool
deriving DecidableEq, Repr

/-- A calibration point (R34, R183). -/
structure CalPoint where
  raw   : Nat
  thick : Nat
deriving DecidableEq, Repr

/-- Wear counters and counts (R183). -/
structure Wear where
  pad       : Nat
  disk      : Nat
  padCount  : Nat
  diskCount : Nat
  wafers    : Nat
deriving DecidableEq, Repr

/-- Protect flags (R183). -/
structure Protect where
  sensor  : Bool
  channel : Bool
deriving DecidableEq, Repr

/-- A stored record: BLANK, VALID with its contents, or INVALID (R183). -/
inductive Stored (α : Type) where
  | blank
  | valid (contents : α)
  | invalid
deriving DecidableEq, Repr

/-- Contents of a record that is staged or programmed (R187, R188). -/
inductive Contents where
  | sensorCal (points : List CalPoint)
  | channelCal (offsets : PerFn Int)
  | wear (w : Wear)
  | protect (p : Protect)
deriving DecidableEq, Repr

/-- Origin of a write to the store (R187 to R190). -/
inductive WriteOrigin where
  | tool | interlock | internal
deriving DecidableEq, Repr

/-- What is staged, or being programmed: contents and origin (R187, R188). -/
structure Write where
  contents : Contents
  origin   : WriteOrigin
deriving DecidableEq, Repr

/-- The parameter store (chapter 10). `cal` is none while the SENSOR_CAL working copy is not valid; `engine` is none
while the commit engine is IDLE. -/
structure ParameterStore where
  sensorRec   : Stored (List CalPoint)
  channelRec  : Stored (PerFn Int)
  wearRec     : Stored Wear
  protectRec  : Stored Protect
  cal         : Option (List CalPoint)
  offsets     : PerFn Int
  protect     : Protect
  live        : Wear
  staged      : Option Write
  engine      : Option Write
  wearPending : Bool
deriving DecidableEq, Repr

end Sys2Proof.Machine
end

