-- ==== Sys2Proof/Machine/Codes.lean ====
section
/-! DEFINITION. The codes of enumerations in payloads. The codes of the first part are those of the table of R195. R195
lists no code for the enumerations of the second part: they are numbered from 1 in the order in which the spec lists
their values, as most tables of R195 are. DESIGN CHOICE (log 14), unsafe. -/

namespace Sys2Proof.Machine

/-! Codes of R194 and R195. -/

/-- Frame kinds (R194). -/
def kindSetpoint : Nat := 1
def kindStatus : Nat := 2
def kindSample : Nat := 3
def kindRequest : Nat := 4
def kindResponse : Nat := 5
def kindEvent : Nat := 6

def headCode : Head → Nat
  | .a => 1
  | .b => 2

def headOfCode : Nat → Option Head
  | 1 => some .a
  | 2 => some .b
  | _ => none

/-- Head field of an event record: 0 means no head (R195). -/
def headFieldCode : Option Head → Nat
  | none => 0
  | some h => headCode h

def zoneCode : Zone → Nat
  | .z1 => 1
  | .z2 => 2
  | .z3 => 3
  | .z4 => 4
  | .z5 => 5
  | .z6 => 6

def zoneOfCode : Nat → Option Zone
  | 1 => some .z1
  | 2 => some .z2
  | 3 => some .z3
  | 4 => some .z4
  | 5 => some .z5
  | 6 => some .z6
  | _ => none

/-- Zone map entry: 0 means X, and the outer `none` an entry that is neither a zone nor X (R195, R38). -/
def mapEntryOfCode : Nat → Option (Option Zone)
  | 0 => some none
  | n => (zoneOfCode n).map some

def areaCode : Area → Nat
  | .zone z => zoneCode z
  | .ring => 7

/-- Function keys 1 to 21 (R195). -/
def fnCode : Fn → Nat
  | .head .a x => areaCode x
  | .head .b x => 7 + areaCode x
  | .dose1 => 15
  | .dose2 => 16
  | .dose3 => 17
  | .rinse => 18
  | .arm => 19
  | .force => 20
  | .disk => 21

def fnOfCode (n : Nat) : Option Fn := Fn.all.find? fun f => fnCode f == n

/-- A key of the function map: a function or SENSOR (R100). -/
inductive MapKey where
  | fn (f : Fn)
  | sensor
deriving DecidableEq, Repr

/-- Keys 1 to 22 (R195). -/
def keyOfCode (n : Nat) : Option MapKey :=
  if n = 22 then some .sensor else (fnOfCode n).map .fn

/-- Place of a sample within its crossing (R31). -/
inductive SamplePosition where
  | first | mid | last
deriving DecidableEq, Repr

def positionOfCode : Nat → Option SamplePosition
  | 1 => some .first
  | 2 => some .mid
  | 3 => some .last
  | _ => none

def outcomeCode : OutcomeCode → Nat
  | .done => 0
  | .busy => 1
  | .invalid => 2
  | .state => 3
  | .mode => 4
  | .origin => 5
  | .protected_ => 6
  | .notReady => 7
  | .sequence => 8
  | .unknown => 9

def causeCode : EndCause → Nat
  | .time => 1
  | .endpoint => 2
  | .skip => 3
  | .abort => 4

def actionCode : Action → Nat
  | .note => 1
  | .pause => 2
  | .hold => 3
  | .reset => 4

def actionOfCode : Nat → Option Action
  | 1 => some .note
  | 2 => some .pause
  | 3 => some .hold
  | 4 => some .reset
  | _ => none

def modeCode : Mode → Nat
  | .transparent => 0
  | .active => 1

def modeOfCode : Nat → Option Mode
  | 0 => some .transparent
  | 1 => some .active
  | _ => none

def recordCode : RecordName → Nat
  | .sensorCal => 1
  | .channelCal => 2
  | .wear => 3
  | .protect => 4

def recordOfCode : Nat → Option RecordName
  | 1 => some .sensorCal
  | 2 => some .channelCal
  | 3 => some .wear
  | 4 => some .protect
  | _ => none

def storedCode {α : Type} : Stored α → Nat
  | .blank => 0
  | .valid _ => 1
  | .invalid => 2

def writeOriginCode : WriteOrigin → Nat
  | .tool => 1
  | .interlock => 2
  | .internal => 3

def queueCode : QueueName → Nat
  | .downbound => 1
  | .upbound => 2

def eventCode : EventKind → Nat
  | .started => 1
  | .modeChanged => 2
  | .stepEntered => 3
  | .padGranted => 4
  | .zoneCleared => 5
  | .headEndpoint => 6
  | .stepEnded => 7
  | .headDone => 8
  | .headAborted => 9
  | .conditionTaken => 10
  | .stationHold => 11
  | .holdReleased => 12
  | .stationReset => 13
  | .storeCommitted => 14

/-- Source numbers (R138). -/
def sourceNumber : SourceId → Nat
  | .supervisionLoss => 1
  | .portDLoss => 2
  | .pressureDevA => 3
  | .pressureDevB => 4
  | .stepTimeoutA => 5
  | .stepTimeoutB => 6
  | .sampleGapA => 7
  | .sampleGapB => 8
  | .flowDev => 9
  | .armStall => 10
  | .setpointMismatch => 11
  | .padWorn => 12
  | .diskWorn => 13
  | .forwardOverflow => 14
  | .storeFault => 15
  | .limitReached => 16

def sourceOfNumber (n : Nat) : Option SourceId := SourceId.all.find? fun k => sourceNumber k == n

/-- Link rate as IDENTIFY and STARTED carry it (R164, R198). -/
def rateCode : LinkRate → Nat
  | .mbit10 => 10
  | .mbit25 => 25

/-- Yes or no is 1 or 0 (R197). -/
def yesOfCode : Nat → Option Bool
  | 0 => some false
  | 1 => some true
  | _ => none

/-! Codes that R195 does not list: DESIGN CHOICE (log 14). -/

def endModeOfCode : Nat → Option EndMode
  | 1 => some .time
  | 2 => some .endpoint
  | 3 => some .endpointOrTime
  | _ => none

/-- Sections of READ_STATE, in R166's order. -/
inductive StateSection where
  | station | pad | function | clamped
deriving DecidableEq, Repr

def sectionOfCode : Nat → Option StateSection
  | 1 => some .station
  | 2 => some .pad
  | 3 => some .function
  | 4 => some .clamped
  | _ => none

/-- Items of READ_RESULT: SUMMARY 1, STEP 2 (R27). -/
def itemSummary : Nat := 1
def itemStep : Nat := 2

/-- Items of READ_PROFILE: COMPUTATION 1, HISTORY 2 (R67). -/
def itemComputation : Nat := 1
def itemHistory : Nat := 2

/-- Parts of READ_CONDITIONS: SUMMARY 1, SOURCE 2 (R153). -/
def partSummary : Nat := 1
def partSource : Nat := 2

/-- Copies of STORE_READ: STORED 1, WORKING 2 (R186). -/
def copyStored : Nat := 1
def copyWorking : Nat := 2

/-- Items of REPLACE_CONSUMABLE: PAD 1, DISK 2 (R97). -/
def itemPad : Nat := 1
def itemDisk : Nat := 2

def headStateCode : HeadState → Nat
  | .empty => 1
  | .ready => 2
  | .waitPad => 3
  | .polishing => 4
  | .paused => 5
  | .hold => 6
  | .done => 7
  | .aborted => 8

def stepTimerCode : StepTimer → Nat
  | .stopped => 1
  | .running _ => 2
  | .frozen _ => 3
  | .expired => 4

def linkCode : LinkState → Nat
  | .online => 1
  | .offline _ => 2

def sourceStateCode : SourceState → Nat
  | .idle => 1
  | .pending => 2
  | .served => 3

def zoneStatusCode : ZoneStatus → Nat
  | .noTarget => 1
  | .cleared => 2
  | .absent => 3
  | .oneRecord => 4
  | .zeroInterval => 5
  | .slow => 6
  | .corrected => 7

def controlOutcomeCode : ControlOutcome → Nat
  | .tooFew => 1
  | .noReference => 2
  | .applied => 3

def devCode : DevState → Nat
  | .inBand => 1
  | .dwell _ => 2
  | .deviated => 3

def condPhaseCode : CondPhase → Nat
  | .travel _ => 1
  | .dwell _ => 2

/-- State of the commit engine: IDLE 1, PROGRAMMING 2 (R188). -/
def engineCode : Option Write → Nat
  | none => 1
  | some _ => 2

/-- Authority over a function: part 1, tool 2 (R103). -/
def authorityCode (part : Bool) : Nat := if part then 1 else 2

end Sys2Proof.Machine
end

