-- ==== Sys2Proof/Machine/Bytes.lean ====
section
/-! DEFINITION. The bytes of the station link: how numbers and fields are written (R197), the check code (R119), the
frame (R194), and the receiver's checks (R120). -/

namespace Sys2Proof.Machine

/-! Writing fields: most significant byte first, signed numbers in two's complement (chapter 11, R197). -/

def u8 (n : Nat) : List Byte := [BitVec.ofNat 8 n]
def u16 (n : Nat) : List Byte := [BitVec.ofNat 8 (n / 256), BitVec.ofNat 8 n]

/-- The four bytes of a 32-bit word. -/
def word32 (w : BitVec 32) : List Byte :=
  [w.extractLsb' 24 8, w.extractLsb' 16 8, w.extractLsb' 8 8, w.extractLsb' 0 8]

def u32 (n : Nat) : List Byte := word32 (BitVec.ofNat 32 n)
def i16 (z : Int) : List Byte := u16 (BitVec.ofInt 16 z).toNat
def i32 (z : Int) : List Byte := word32 (BitVec.ofInt 32 z)
def yes (b : Bool) : List Byte := u8 b.toNat

/-- An optional field: a presence byte, followed by the field when present (R197). -/
def opt {α : Type} (write : α → List Byte) : Option α → List Byte
  | none => u8 0
  | some x => u8 1 ++ write x

/-- A list of varying length: a count byte, followed by the elements (R197). -/
def counted {α : Type} (write : α → List Byte) (xs : List α) : List Byte :=
  u8 xs.length ++ xs.flatMap write

/-- A number whose bit k (from the lowest) is set when the k-th Bool is true: sets of zones, heads, functions (R197). -/
def bitSet : List Bool → Nat
  | [] => 0
  | b :: bs => b.toNat + 2 * bitSet bs

def zoneSet (t : PerZone Bool) : List Byte := u8 (bitSet t.toList)
def headSet (p : Pair Bool) : List Byte := u8 (bitSet [p.a, p.b])

/-- A set of functions: 3 bytes holding a 24-bit number (R197). -/
def fnSet (t : PerFn Bool) : List Byte :=
  let n := bitSet t.toList
  u8 (n / 65536) ++ u16 n

/-- A 32-bit word for a duration in ms; beyond four bytes the spec states no value (log 16). -/
def durationWord (ms : Nat) : BitVec 32 :=
  if ms ≤ Config.longMax then BitVec.ofNat 32 ms else Config.longDuration ms

/-! The check code (R119). -/

/-- One bit enters the code register of the generator x^16 + x^12 + x^5 + 1. -/
def crcBit (c : BitVec 16) (bit : Bool) : BitVec 16 :=
  if c.msb != bit then (c <<< 1) ^^^ 0x1021#16 else c <<< 1

/-- A byte enters the register, most significant bit first. -/
def crcByte (c : BitVec 16) (b : Byte) : BitVec 16 :=
  [7, 6, 5, 4, 3, 2, 1, 0].foldl (fun c i => crcBit c (b.getLsbD i)) c

/-- The check code over some bytes: the register starts at all ones, with no final inversion. -/
def checkCode (bs : List Byte) : BitVec 16 := bs.foldl crcByte 0xFFFF#16

/-- The code as it is sent, most significant byte first. -/
def checkBytes (bs : List Byte) : List Byte := u16 (checkCode bs).toNat

/-! The frame (R194). -/

/-- A frame with the given three header bytes and payload, its length byte and check code computed. -/
def sealFrame (dest source kind : Byte) (payload : List Byte) : List Byte :=
  let body := [dest, source, kind, BitVec.ofNat 8 payload.length] ++ payload
  body ++ checkBytes body

/-- A frame the part builds: spare bits 0 (R194). -/
def ownFrame (dest source kind : Nat) (payload : List Byte) : List Byte :=
  sealFrame (BitVec.ofNat 8 dest) (BitVec.ofNat 8 source) (BitVec.ofNat 8 kind) payload

def frameByte (f : List Byte) (i : Nat) : Byte := f.getD i 0

/-- Addresses are read from the low six bits (R194). -/
def frameDest (f : List Byte) : Nat := (frameByte f 0).toNat % 64
def frameSource (f : List Byte) : Nat := (frameByte f 1).toNat % 64
def frameKind (f : List Byte) : Nat := (frameByte f 2).toNat
def framePayload (f : List Byte) : List Byte := (f.drop 4).take (f.length - 6)

/-- The receiver's four checks on a collected frame (R120): long enough, length byte at most 120, length byte in
agreement with the bytes, check code right. -/
def frameGood (f : List Byte) : Bool :=
  decide (6 ≤ f.length) && decide ((frameByte f 3).toNat ≤ 120) &&
    decide ((frameByte f 3).toNat + 6 = f.length) &&
    decide (checkBytes (f.take (f.length - 2)) = f.drop (f.length - 2))

/-! Node payloads (R196). -/

/-- A two-byte number, most significant byte first. -/
def be16 (hi lo : Byte) : Nat := hi.toNat * 256 + lo.toNat

/-- A SETPOINT record: its channel byte and node value. -/
structure SetpointRecord where
  channel : Byte
  value   : Nat
deriving DecidableEq, Repr

/-- A STATUS record. -/
structure StatusRecord where
  channel : Nat
  status  : NodeStatus
deriving DecidableEq, Repr

/-- A SAMPLE record as it stands in a frame, its head and position still codes. -/
structure SampleRecord where
  head     : Nat
  position : Nat
  radius   : Nat
  raw      : Nat
deriving DecidableEq, Repr

/-- The bytes after the count, when the count is 1 to 8 and the length agrees with it; else the payload is malformed
(R31, R105, R111, R196). -/
def recordBytes (size : Nat) : List Byte → Option (List Byte)
  | [] => none
  | c :: rest =>
    if 1 ≤ c.toNat ∧ c.toNat ≤ 8 ∧ rest.length = size * c.toNat then some rest else none

def setpointRecords : List Byte → List SetpointRecord
  | c :: h :: l :: rest => ⟨c, be16 h l⟩ :: setpointRecords rest
  | _ => []

def statusRecords : List Byte → List StatusRecord
  | c :: r :: ah :: al :: mh :: ml :: rest =>
    ⟨c.toNat, { ready := r.getLsbD 0, applied := be16 ah al, measured := be16 mh ml }⟩ :: statusRecords rest
  | _ => []

def sampleRecords : List Byte → List SampleRecord
  | h :: p :: rh :: rl :: wh :: wl :: rest => ⟨h.toNat, p.toNat, be16 rh rl, be16 wh wl⟩ :: sampleRecords rest
  | _ => []

def setpointPayload (rs : List SetpointRecord) : List Byte :=
  u8 rs.length ++ rs.flatMap fun r => r.channel :: u16 r.value

/-! Event and response payloads (R197, R198). -/

/-- The 19 bytes of an event record (R198). -/
def eventBytes (e : EventRecord) : List Byte :=
  u8 (eventCode e.kind) ++ u8 (headFieldCode e.head) ++ u8 (e.droppedBefore.toNat + 2 * e.data.length) ++
    word32 e.time ++ word32 (e.data.getD 0 0) ++ word32 (e.data.getD 1 0) ++ word32 (e.data.getD 2 0)

def eventPayload (es : List EventRecord) : List Byte := u8 es.length ++ es.flatMap eventBytes

/-- Tag, outcome, results (R197). -/
def responsePayload (r : Response) : List Byte := r.tag :: u8 (outcomeCode r.outcome) ++ r.results

end Sys2Proof.Machine
end

