-- ==== Sys2Proof/Machine/Operands.lean ====
section
/-! DEFINITION. The arguments of the requests: for each request the fields its rule lists, and the walk over the
argument bytes that step 4 of R161 makes (R197). A walk that fails, runs out of bytes or leaves bytes over gives none.
Enumerations stay codes here: the owning rule's range check judges them. Layout conventions beyond R197: log 15. -/

namespace Sys2Proof.Machine

/-- A walk over argument bytes: what it read, and the bytes left. -/
abbrev Walk (α : Type) := List Byte → Option (α × List Byte)

/-- A walk that reads nothing. -/
def walkPure {α : Type} (x : α) : Walk α := fun bs => some (x, bs)

/-- A walk that goes on with what another read. -/
def walkThen {α β : Type} (p : Walk α) (q : α → Walk β) : Walk β := fun bs =>
  match p bs with
  | none => none
  | some (x, rest) => q x rest

/-- The whole of the argument bytes by one walk. -/
def wholeWalk {α : Type} (p : Walk α) (bs : List Byte) : Option α :=
  match p bs with
  | some (x, []) => some x
  | _ => none

def byte : Walk Nat
  | b :: rest => some (b.toNat, rest)
  | [] => none

def word : Walk Nat
  | h :: l :: rest => some (be16 h l, rest)
  | _ => none

def long : Walk Nat
  | a :: b :: c :: d :: rest => some (be16 a b * 65536 + be16 c d, rest)
  | _ => none

/-- A signed two-byte field (offsets). -/
def signedWord : Walk Int :=
  walkThen word fun n => walkPure (BitVec.ofNat 16 n).toInt

/-- An optional field: a presence byte other than 0 or 1 stops the walk (R197). -/
def optField {α : Type} (p : Walk α) : Walk (Option α) :=
  walkThen byte fun n =>
    if n = 0 then walkPure none
    else if n = 1 then walkThen p fun x => walkPure (some x)
    else fun _ => none

/-- A field repeated n times. -/
def times {α : Type} (p : Walk α) : Nat → Walk (List α)
  | 0 => walkPure []
  | n + 1 => walkThen p fun x => walkThen (times p n) fun xs => walkPure (x :: xs)

/-- A list of varying length: a count byte above the largest length stops the walk (R197). -/
def listField {α : Type} (most : Nat) (p : Walk α) : Walk (List α) :=
  walkThen byte fun n => if n ≤ most then times p n else fun _ => none

def zonesField {α : Type} (p : Walk α) : Walk (PerZone α) :=
  walkThen p fun a => walkThen p fun b => walkThen p fun c =>
  walkThen p fun d => walkThen p fun e => walkThen p fun f => walkPure ⟨a, b, c, d, e, f⟩

def areasField {α : Type} (p : Walk α) : Walk (PerArea α) :=
  walkThen (zonesField p) fun zs => walkThen p fun r => walkPure ⟨zs, r⟩

def fnsField {α : Type} (p : Walk α) : Walk (PerFn α) :=
  walkThen (areasField p) fun ha => walkThen (areasField p) fun hb =>
  walkThen p fun a => walkThen p fun b => walkThen p fun c => walkThen p fun d =>
  walkThen p fun e => walkThen p fun f => walkThen p fun g => walkPure ⟨ha, hb, a, b, c, d, e, f, g⟩

/-- A request without arguments. -/
def noArgs : Walk Unit := walkPure ()

/-- READ_STATE (R166): a section, and for FUNCTION a key. -/
structure ReadStateArgs where
  section_ : Nat
  key      : Option Nat
deriving DecidableEq, Repr

def readStateArgs : Walk ReadStateArgs :=
  walkThen byte fun sec =>
    match sectionOfCode sec with
    | some .function => walkThen byte fun k => walkPure ⟨sec, some k⟩
    | _ => walkPure ⟨sec, none⟩

/-- Limits of one zone or of the ring: min, max, hold, in R172's order. -/
def areaLimitField : Walk AreaLimit :=
  walkThen word fun lo => walkThen word fun hi => walkThen word fun hold => walkPure ⟨lo, hi, hold⟩

/-- WRITE_LIMITS (R173): the complete block of R172, in its order. -/
def limitsArgs : Walk LimitBlock :=
  walkThen (areasField areaLimitField) fun areas =>
  walkThen byte fun pressureBand => walkThen word fun pressureDwell =>
  walkThen word fun dose1Max => walkThen word fun dose2Max => walkThen word fun dose3Max =>
  walkThen word fun totalMax => walkThen word fun rinseMax => walkThen word fun holdRinse =>
  walkThen word fun flowBand => walkThen word fun flowDwell =>
  walkThen word fun forceMax => walkThen byte fun diskMax =>
  walkThen word fun armMin => walkThen word fun armMax => walkThen word fun park =>
  walkThen byte fun armTolerance => walkThen word fun arrivalTimeout =>
  walkThen word fun supervisionTimeout => walkThen word fun sampleGapTimeout =>
  walkThen long fun padLife => walkThen long fun diskLife =>
  walkPure { areas, pressureBand, pressureDwell, dose1Max, dose2Max, dose3Max, totalMax, rinseMax, holdRinse,
             flowBand, flowDwell, forceMax, diskMax, armMin, armMax, park, armTolerance, arrivalTimeout,
             supervisionTimeout, sampleGapTimeout, padLife, diskLife }

/-- MAP_FUNCTION (R101): a key, and a node channel or (absent) UNASSIGN. -/
structure MapArgs where
  key     : Nat
  channel : Option NodeChannel
deriving DecidableEq, Repr

def mapArgs : Walk MapArgs :=
  walkThen byte fun key =>
  walkThen (optField (walkThen byte fun n => walkThen byte fun c => walkPure (NodeChannel.mk n c))) fun ch =>
  walkPure ⟨key, ch⟩

/-- LOAD_ZONE_MAP (R38): a head and 60 entries. -/
structure ZoneMapArgs where
  head    : Nat
  entries : List Nat
deriving DecidableEq, Repr

def zoneMapArgs : Walk ZoneMapArgs :=
  walkThen byte fun h => walkThen (times byte 60) fun es => walkPure ⟨h, es⟩

/-- LOAD_STEP (R3). -/
structure StepArgs where
  index      : Nat
  endMode    : Nat
  limit      : Nat
  base       : PerArea Nat
  bounds     : Option (PerArea Bounds)
  minSamples : Option Nat
  control    : Option ControlSection
  endpoint   : Option EndpointSection
  pad        : Option Nat
deriving DecidableEq, Repr

def boundsField : Walk Bounds :=
  walkThen word fun lo => walkThen word fun hi => walkPure ⟨lo, hi⟩

def controlField : Walk ControlSection :=
  walkThen word fun gain => walkThen byte fun maxStep => walkThen word fun minRate => walkThen byte fun depth =>
  walkPure ⟨gain, maxStep, minRate, depth⟩

def zoneTargetField : Walk ZoneTarget :=
  walkThen (optField long) fun target => walkThen (optField word) fun cleared => walkPure ⟨target, cleared⟩

def endpointField : Walk EndpointSection :=
  walkThen (zonesField zoneTargetField) fun zones => walkThen word fun margin => walkThen byte fun confirm =>
  walkPure ⟨zones, margin, confirm⟩

def stepArgs : Walk StepArgs :=
  walkThen byte fun index => walkThen byte fun endMode => walkThen long fun limit =>
  walkThen (areasField word) fun base => walkThen (optField (areasField boundsField)) fun bounds =>
  walkThen (optField byte) fun minSamples => walkThen (optField controlField) fun control =>
  walkThen (optField endpointField) fun endpoint => walkThen (optField byte) fun pad =>
  walkPure { index, endMode, limit, base, bounds, minSamples, control, endpoint, pad }

/-- LOAD_BLEND (R81): an index and the five fields. -/
structure BlendArgs where
  index : Nat
  blend : Blend
deriving DecidableEq, Repr

def blendArgs : Walk BlendArgs :=
  walkThen byte fun index => walkThen word fun flow => walkThen word fun r1 => walkThen word fun r2 =>
  walkThen word fun r3 => walkThen word fun rinse => walkPure ⟨index, ⟨flow, r1, r2, r3, rinse⟩⟩

/-- LOAD_CONDITIONING (R87). -/
structure ConditioningArgs where
  index   : Nat
  program : CondProgram
deriving DecidableEq, Repr

def conditioningArgs : Walk ConditioningArgs :=
  walkThen byte fun index => walkThen word fun force => walkThen byte fun speed =>
  walkThen (listField 16 (walkThen word fun p => walkThen word fun d => walkPure (Segment.mk p d))) fun segs =>
  walkPure ⟨index, ⟨force, speed, segs⟩⟩

/-- LOAD_PAD_SERVICE (R71). -/
structure PadServiceArgs where
  entry   : Nat
  service : PadService
deriving DecidableEq, Repr

def padServiceArgs : Walk PadServiceArgs :=
  walkThen byte fun entry => walkThen (optField byte) fun blend => walkThen (optField byte) fun program =>
  walkPure ⟨entry, ⟨blend, program⟩⟩

/-- LOAD_PROGRAM (R6). -/
structure ProgramArgs where
  head  : Nat
  steps : List Nat
deriving DecidableEq, Repr

def programArgs : Walk ProgramArgs :=
  walkThen byte fun h => walkThen (listField 12 byte) fun steps => walkPure ⟨h, steps⟩

/-- READ_RESULT (R27): a head, and SUMMARY or STEP with a number. -/
structure ReadResultArgs where
  head   : Nat
  item   : Nat
  number : Nat
deriving DecidableEq, Repr

def readResultArgs : Walk ReadResultArgs :=
  walkThen byte fun h => walkThen byte fun item =>
  if item = itemStep then walkThen byte fun n => walkPure ⟨h, item, n⟩ else walkPure ⟨h, item, 0⟩

/-- READ_PROFILE (R67): a head, and COMPUTATION with a zone or HISTORY with a position. -/
structure ReadProfileArgs where
  head  : Nat
  item  : Nat
  which : Nat
deriving DecidableEq, Repr

def readProfileArgs : Walk ReadProfileArgs :=
  walkThen byte fun h => walkThen byte fun item => walkThen byte fun n => walkPure ⟨h, item, n⟩

/-- SET_SOURCE (R150). -/
structure SetSourceArgs where
  source   : Nat
  enable   : Nat
  severity : Nat
  action   : Nat
deriving DecidableEq, Repr

def setSourceArgs : Walk SetSourceArgs :=
  walkThen byte fun k => walkThen byte fun en => walkThen byte fun sev => walkThen byte fun act =>
  walkPure ⟨k, en, sev, act⟩

/-- SIMULATE_SOURCE (R152): the head byte is present for every source. -/
structure SimulateArgs where
  source : Nat
  head   : Nat
  value  : Nat
deriving DecidableEq, Repr

def simulateArgs : Walk SimulateArgs :=
  walkThen byte fun k => walkThen byte fun h => walkThen word fun v => walkPure ⟨k, h, v⟩

/-- READ_CONDITIONS (R153): SUMMARY, or SOURCE with a number. -/
structure ReadConditionsArgs where
  part   : Nat
  source : Nat
deriving DecidableEq, Repr

def readConditionsArgs : Walk ReadConditionsArgs :=
  walkThen byte fun part =>
  if part = partSource then walkThen byte fun k => walkPure ⟨part, k⟩ else walkPure ⟨part, 0⟩

/-- STORE_READ (R186). -/
structure StoreReadArgs where
  record : Nat
  copy   : Nat
deriving DecidableEq, Repr

def storeReadArgs : Walk StoreReadArgs :=
  walkThen byte fun r => walkThen byte fun c => walkPure ⟨r, c⟩

/-- The contents of a STORE_STAGE request as they stand in it, not yet judged; flags are still codes (R187). -/
inductive StagedArgs where
  | sensorCal (points : List CalPoint)
  | channelCal (offsets : PerFn Int)
  | wear (w : Wear)
  | protect (sensor channel : Nat)
  | unknown
deriving DecidableEq, Repr

/-- STORE_STAGE (R187): a record and its complete contents. The bytes after a record code that names no record have no
layout; they are taken as they are and the owning rule refuses the name. -/
def stageArgs : Walk StagedArgs :=
  walkThen byte fun r =>
    match recordOfCode r with
    | some .sensorCal =>
      walkThen (times (walkThen word fun raw => walkThen long fun t => walkPure (CalPoint.mk raw t)) 16) fun ps =>
      walkPure (.sensorCal ps)
    | some .channelCal => walkThen (fnsField signedWord) fun os => walkPure (.channelCal os)
    | some .wear =>
      walkThen long fun p => walkThen long fun d => walkThen word fun pc => walkThen word fun dc =>
      walkThen long fun w => walkPure (.wear ⟨p, d, pc, dc, w⟩)
    | some .protect => walkThen byte fun s => walkThen byte fun c => walkPure (.protect s c)
    | none => fun _ => some (.unknown, [])

end Sys2Proof.Machine
end

