-- ==== Sys2Proof/Machine/ResetValues.lean ====
section
/-! DEFINITION. The values each block holds after hardware reset, block by block. -/

namespace Sys2Proof.Machine

/-- Hardware reset asserted (R135). The own address and the link rate before the straps are latched are a DESIGN CHOICE
(log 6), unsafe. -/
def resetBase : TimeBase := { phase := .asserted, time := 0, ownAddr := 61, rate := .mbit10 }

/-- A port at reset release (R137). -/
def resetPort : PortState := { link := .offline 0, streak := 0, tx := .free, last := .own }

/-- A function after hardware reset (R117). -/
def resetFn : FnState :=
  { assign := none, status := none, ready := false, lastTx := none, echo := 0, dev := .inBand, clamped := false }

/-- The sample unit after hardware reset (R49). -/
def resetSampler : Sampler := { zoneMap := none, openSweep := none, counter := 0, history := [] }

/-- A head sequencer after hardware reset (R28). -/
def resetSequencer : Sequencer :=
  { state := .empty, program := none, position := none, timer := .stopped, gap := none
    confirm := PerZone.fill 0, cleared := PerZone.fill false, commanded := PerArea.fill none
    results := [], current := none }

/-- Arbiter and dosing unit after hardware reset (R84). -/
def resetArbiter : Arbiter := { table := [], service := none, waiting := [], hold := false }
def resetDosing : DosingUnit := { blends := [], current := none }

/-- The conditioner unit after hardware reset (R98). -/
def resetConditioner : Conditioner :=
  { programs := [], run := none, padRem := 0, diskRem := 0, padWorn := false, diskWorn := false }

/-- Severity and action of each source after hardware reset (R138). -/
def defaultSetting : SourceId → Nat × Action
  | .supervisionLoss => (14, .hold)
  | .portDLoss => (13, .hold)
  | .pressureDevA => (8, .pause)
  | .pressureDevB => (8, .pause)
  | .stepTimeoutA => (6, .pause)
  | .stepTimeoutB => (6, .pause)
  | .sampleGapA => (5, .note)
  | .sampleGapB => (5, .note)
  | .flowDev => (9, .pause)
  | .armStall => (7, .note)
  | .setpointMismatch => (10, .hold)
  | .padWorn => (3, .note)
  | .diskWorn => (3, .note)
  | .forwardOverflow => (2, .note)
  | .storeFault => (4, .note)
  | .limitReached => (1, .note)

/-- A source after hardware reset (R138, R158). -/
def resetSource (k : SourceId) : Source :=
  { state := .idle, enabled := true, severity := (defaultSetting k).1, action := (defaultSetting k).2
    data := none, real := false, sim := false }

/-- The condition unit after hardware reset (R158). -/
def resetConditions : ConditionUnit := { sources := PerSource.tabulate resetSource, level := 0, stack := [] }

/-- The management unit after hardware reset (R181). -/
def resetManagement : Management :=
  { mode := .transparent, requests := [], responses := [], heldBack := none, events := [], dropped := false
    supTimer := none, supLoss := false, limits := none, resetTaken := false }

/-- Counters of nothing worn. -/
def noWear : Wear := { pad := 0, disk := 0, padCount := 0, diskCount := 0, wafers := 0 }

/-- The parameter store after hardware reset, with records never committed: DESIGN CHOICE for the records (log 5) and
for the in-use copies before the load of R185 (log 7), unsafe. -/
def resetStore : ParameterStore :=
  { sensorRec := .blank, channelRec := .blank, wearRec := .blank, protectRec := .blank
    cal := none, offsets := PerFn.fill 0, protect := { sensor := false, channel := false }, live := noWear
    staged := none, engine := none, wearPending := false }

end Sys2Proof.Machine
end

