-- ==== Sys2Proof/Machine/State.lean ====
section
/-! DEFINITION. Everything the spec gives the part to hold, block by block, as plain data, and the state right after
hardware reset. -/

namespace Sys2Proof.Machine

/-- The machine's faults. There are none: the spec names no event that stops the part (INVENTORY.md, Faults). -/
inductive Fault where
deriving DecidableEq, Repr

/-- Why a command is refused. -/
inductive Refusal where
  /-- The command has no meaning yet: raised by exec's arm of that name alone. Safe. No arm raises it. -/
  | notModelled (mnemonic : String)
deriving DecidableEq, Repr

/-- The state of the part, block by block (00 section 3.1), with the commands that wait (`pending`, first in first out)
and the number of free choices taken (`choice`, the model's own). -/
structure State where
  pending  : List Instr
  base     : TimeBase
  portU    : PortState
  portD    : PortState
  fwd      : Forwarding
  fmap     : FunctionMap
  slots    : PerFn (Option Slot)
  samplers : Pair Sampler
  seqs     : Pair Sequencer
  steps    : Table StepRecord
  comps    : Pair (Option Computation)
  arb      : Arbiter
  dose     : DosingUnit
  cdr      : Conditioner
  cu       : ConditionUnit
  mgmt     : Management
  store    : ParameterStore
  choice   : Nat
deriving DecidableEq, Repr

/-- The part with hardware reset asserted (R135; the values of R28, R49, R68, R84, R98, R117, R137, R158, R181, R192). -/
def State.reset : State :=
  { pending := []
    base := resetBase
    portU := resetPort
    portD := resetPort
    fwd := { down := [], up := [] }
    fmap := { fns := PerFn.fill resetFn, sensor := none }
    slots := PerFn.fill none
    samplers := ⟨resetSampler, resetSampler⟩
    seqs := ⟨resetSequencer, resetSequencer⟩
    steps := []
    comps := ⟨none, none⟩
    arb := resetArbiter
    dose := resetDosing
    cdr := resetConditioner
    cu := resetConditions
    mgmt := resetManagement
    store := resetStore
    choice := 0 }

end Sys2Proof.Machine
end

