-- ==== Sys2Proof/Machine/Ops.lean ====
section
/-! DEFINITION. The operations that several blocks share: station time and timers, access to the blocks of a head, the
event queue, setpoint slot writes, the response queue, free choices, clamping. -/

namespace Sys2Proof.Machine

/-! Station time and timers. -/

/-- The time that has passed since `since`, modulo the wrap of station time (R1). -/
def elapsed (now since : Time) : Nat := (now - since).toNat

/-- A timer started now with this duration ends here. -/
def deadlineAfter (now : Time) (ms : Nat) : Time := now + BitVec.ofNat 32 ms

/-- Station time has reached a deadline. Every duration of the part lies far below half the wrap, so a deadline still
ahead is more than half the wrap behind (log 30). -/
def reached (now deadline : Time) : Bool := decide (elapsed now deadline < 2147483648)

/-- The time a running timer still has. -/
def remainingTime (now deadline : Time) : Nat :=
  if reached now deadline then 0 else elapsed deadline now

/-! Clamping. -/

/-- A value outside a range is replaced by the nearer end of the range (00 section 8). -/
def clampNat (lo hi x : Nat) : Nat := if x < lo then lo else if hi < x then hi else x

def clampInt (lo hi x : Int) : Int := if x < lo then lo else if hi < x then hi else x

/-! The blocks of a head. -/

def State.seq (s : State) (h : Head) : Sequencer := s.seqs.get h

def State.setSeq (s : State) (h : Head) (q : Sequencer) : State := { s with seqs := s.seqs.set h q }

def State.sampler (s : State) (h : Head) : Sampler := s.samplers.get h

def State.setSampler (s : State) (h : Head) (p : Sampler) : State := { s with samplers := s.samplers.set h p }

def State.comp (s : State) (h : Head) : Option Computation := s.comps.get h

def State.setComp (s : State) (h : Head) (c : Option Computation) : State := { s with comps := s.comps.set h c }

/-- Function f's entry of the function map. -/
def State.fn (s : State) (f : Fn) : FnState := s.fmap.fns.get f

def State.setFn (s : State) (f : Fn) (x : FnState) : State :=
  { s with fmap := { s.fmap with fns := s.fmap.fns.set f x } }

/-- The offset of f in the CHANNEL_CAL working copy (R184). -/
def State.offset (s : State) (f : Fn) : Int := s.store.offsets.get f

/-- Source k of the condition unit. -/
def State.source (s : State) (k : SourceId) : Source := s.cu.sources.get k

def State.setSource (s : State) (k : SourceId) (x : Source) : State :=
  { s with cu := { s.cu with sources := s.cu.sources.set k x } }

def State.active (s : State) : Bool := decide (s.mgmt.mode = .active)

/-- The limit block as the blocks read it. R173: no block reads it before it is written; a read then is a free value
(log 17). -/
def State.lim (s : State) : LimitBlock := s.mgmt.limits.getD Config.unwrittenLimits

/-- The step index at a head's step position (R6, R8). -/
def currentIndex (q : Sequencer) : Option Nat :=
  match q.program, q.position with
  | some p, some n => if n = 0 then none else p[n - 1]?
  | _, _ => none

/-- The record of a head's current step (R2). -/
def State.currentStep (s : State) (h : Head) : Option StepRecord :=
  (currentIndex (s.seq h)).bind (tableGet s.steps)

/-! Free choices. -/

/-- The index that the choice numbered n picks among `len` things. -/
def pickIndex (n len : Nat) : Nat := if len ≤ 1 then 0 else Config.choice n % len

/-- A list in an order that the choices from n on pick. -/
def shuffle {α : Type} : Nat → Nat → List α → List α
  | 0, _, xs => xs
  | fuel + 1, n, xs =>
    match xs[pickIndex n xs.length]? with
    | none => xs
    | some x => x :: shuffle fuel (n + 1) (xs.eraseIdx (pickIndex n xs.length))

/-- The same items in a freely chosen order (log 3). -/
def freeOrder {α : Type} (s : State) (xs : List α) : List α := shuffle xs.length s.choice xs

def State.choicesTaken (s : State) (n : Nat) : State := { s with choice := s.choice + n }

/-! The event queue (R177). -/

/-- A block queues an event: appended with dropped-before as the marker stood, or dropped with the marker set. -/
def queueEvent (kind : EventKind) (head : Option Head) (data : List (BitVec 32)) (s : State) : State :=
  if s.mgmt.events.length < Config.eventCapacity then
    { s with mgmt := { s.mgmt with
        events := s.mgmt.events ++
          [{ kind, head, time := s.base.time, data, droppedBefore := s.mgmt.dropped }]
        dropped := false } }
  else { s with mgmt := { s.mgmt with dropped := true } }

/-- A data value of an event record. -/
def dv (n : Nat) : BitVec 32 := BitVec.ofNat 32 n

/-! Setpoint slots (R108). -/

/-- What a slot holds after a write of v that is taken: the write time of a pending slot stays. -/
def slotAfter (now : Time) (v : Nat) : Option Slot → Slot
  | none => { value := v, written := now }
  | some old => { value := v, written := old.written }

/-- A block writes a function value into a slot: not taken in TRANSPARENT mode. -/
def writeSlot (f : Fn) (v : Nat) (s : State) : State :=
  if s.active then { s with slots := s.slots.set f (some (slotAfter s.base.time v (s.slots.get f))) } else s

/-- Several slot writes, in order. -/
def writeSlots (ws : List (Fn × Nat)) (s : State) : State :=
  ws.foldl (fun t w => writeSlot w.1 w.2 t) s

/-! Responses (R160, R162, R179). -/

/-- What an owning rule answers: an outcome and, when the rule gives them, results. -/
structure Answer where
  outcome : OutcomeCode
  results : List Byte
deriving DecidableEq, Repr

/-- DONE without results. -/
def doneAnswer : Answer := { outcome := .done, results := [] }

/-- DONE with results. -/
def doneWith (results : List Byte) : Answer := { outcome := .done, results }

/-- A refusal: its outcome and no effect beyond the response (00 section 9). -/
def refuse (s : State) (o : OutcomeCode) : State × Answer := (s, { outcome := o, results := [] })

/-- The response is placed in the response queue; or, when a station reset was performed since the request was taken,
it is held back until the EVENT frame with the STATION_RESET record has started (R148, R179). -/
def respond (dest : Nat) (tag : Byte) (a : Answer) (s : State) : State :=
  let r : Response := { dest, tag, outcome := a.outcome, results := a.results }
  if s.mgmt.resetTaken then { s with mgmt := { s.mgmt with heldBack := some r, resetTaken := false } }
  else { s with mgmt := { s.mgmt with responses := s.mgmt.responses ++ [r] } }

end Sys2Proof.Machine
end

