-- ==== Sys2Proof/Machine/Flags.lean ====
section
/-! DEFINITION. The conditions the blocks derive from the state: working heads, what is in use, authority, limit bounds,
eligible slots, deviation groups, wear presence, and when a request can be taken. -/

namespace Sys2Proof.Machine

/-- WAIT_PAD, POLISHING, PAUSED and HOLD: the states in which a head's program is in use (R3, R6, R38). -/
def HeadState.working : HeadState → Bool
  | .waitPad | .polishing | .paused | .hold => true
  | .empty | .ready | .done | .aborted => false

def headWorking (s : State) (h : Head) : Bool := (s.seq h).state.working

def anyHeadWorking (s : State) : Bool := headWorking s .a || headWorking s .b

/-- The steps a working head's program names; none of a head that does not work. -/
def workingSteps (s : State) (h : Head) : List Nat :=
  if headWorking s h then (s.seq h).program.getD [] else []

/-- The pad service entries named by the steps of working heads (R71, R81, R87). -/
def workingEntries (s : State) : List Nat :=
  (workingSteps s .a ++ workingSteps s .b).filterMap fun i => (tableGet s.steps i).bind StepRecord.pad

/-- A step index is named in the program of a working head (R3). -/
def stepInUse (s : State) (i : Nat) : Bool := (workingSteps s .a ++ workingSteps s .b).contains i

def grantedEntry (s : State) : Option Nat := s.arb.service.map Grant.entry

/-- A pad service entry is in use: granted, waited for, or named by a working head's step (R71). -/
def entryInUse (s : State) (e : Nat) : Bool :=
  decide (grantedEntry s = some e) || s.arb.waiting.any (fun w => decide (w.2 = e)) ||
    (workingEntries s).contains e

/-- Entries whose blend or program is in use: the granted one and those of working heads' steps (R81, R87). -/
def liveEntries (s : State) : List Nat := (grantedEntry s).toList ++ workingEntries s

def blendInUse (s : State) (b : Nat) : Bool :=
  (liveEntries s).any fun e => decide ((tableGet s.arb.table e).bind PadService.blend = some b)

def conditioningInUse (s : State) (p : Nat) : Bool :=
  (liveEntries s).any fun e => decide ((tableGet s.arb.table e).bind PadService.program = some p)

/-- Part authority over a function; otherwise it is under tool authority (R103). -/
def partAuthority (s : State) : Fn → Bool
  | .head h _ => s.active && headWorking s h
  | _ => s.active && (s.arb.service.isSome || s.arb.hold)

/-- Limit bounds of a function (R104). -/
def limitBounds (l : LimitBlock) : Fn → Bounds
  | .head _ x => { lo := (l.areas.get x).min, hi := (l.areas.get x).max }
  | .dose1 => { lo := 0, hi := l.dose1Max }
  | .dose2 => { lo := 0, hi := l.dose2Max }
  | .dose3 => { lo := 0, hi := l.dose3Max }
  | .rinse => { lo := 0, hi := l.rinseMax }
  | .arm => { lo := l.armMin, hi := l.armMax }
  | .force => { lo := 0, hi := l.forceMax }
  | .disk => { lo := 0, hi := l.diskMax }

/-- A slot is eligible: pending, mapped, and its channel ready (R109). -/
def slotEligible (s : State) (f : Fn) : Bool :=
  (s.slots.get f).isSome && (s.fn f).assign.isSome && (s.fn f).ready

def eligibleSlots (s : State) : List Fn := Fn.all.filter (slotEligible s)

/-- Some key of the map, SENSOR among them, holds a node channel at this node (R105). -/
def nodeMapped (s : State) (node : Nat) : Bool :=
  Fn.all.any (fun f => decide ((s.fn f).assign.map NodeChannel.node = some node)) ||
    decide (s.fmap.sensor.map NodeChannel.node = some node)

/-- The function that holds a node channel (R100, R105, R111). -/
def fnAt (s : State) (node channel : Nat) : Option Fn :=
  if channel ≤ 7 then Fn.all.find? fun f => decide ((s.fn f).assign = some ⟨node, channel⟩) else none

/-- The level source that a function's deviation feeds (R115). -/
def deviationSource : Fn → Option SourceId
  | .head .a _ => some .pressureDevA
  | .head .b _ => some .pressureDevB
  | .dose1 | .dose2 | .dose3 | .rinse => some .flowDev
  | .arm | .force | .disk => none

/-- Some function of a group is DEVIATED (R115). -/
def groupDeviated (s : State) (k : SourceId) : Bool :=
  Fn.all.any fun f => decide (deviationSource f = some k) && decide ((s.fn f).dev = .deviated)

/-- Pad worn and disk worn as an evaluation finds them (R96). -/
def padIsWorn (s : State) : Bool :=
  match s.mgmt.limits with
  | none => false
  | some l => decide (l.padLife ≤ s.store.live.pad)

def diskIsWorn (s : State) : Bool :=
  match s.mgmt.limits with
  | none => false
  | some l => decide (l.diskLife ≤ s.store.live.disk)

/-- Level sources; the others are edge sources (R138). -/
def isLevel : SourceId → Bool
  | .supervisionLoss | .portDLoss | .pressureDevA | .pressureDevB | .flowDev | .padWorn | .diskWorn => true
  | .stepTimeoutA | .stepTimeoutB | .sampleGapA | .sampleGapB | .armStall | .setpointMismatch
  | .forwardOverflow | .storeFault | .limitReached => false

/-- The two special sources (R138). -/
def isSpecial : SourceId → Bool
  | .supervisionLoss | .portDLoss => true
  | _ => false

/-- A level source is present while its real presence or its simulation flag says so (R141). -/
def Source.present (x : Source) : Bool := x.real || x.sim

/-- The management unit can take a request: it holds back no response and the response queue has room (R160). It
serves no request between two steps, for a step is whole. -/
def canTake (s : State) : Bool :=
  s.mgmt.heldBack.isNone && decide (s.mgmt.responses.length < Config.responseCapacity)

/-- The part runs: hardware reset is released and the bypass switch has opened (R135, R136). -/
def isRunning (s : State) : Bool := decide (s.base.phase = .running)

end Sys2Proof.Machine
end

