-- ==== Sys2Proof/Machine/Dosing.lean ====
section
/-! DEFINITION. The dosing unit: the flow split and the writes of the four dosing setpoints (chapter 4, R82, R83). -/

namespace Sys2Proof.Machine

/-- The truncated share of a ratio in per-mille (R83, step 2). -/
def share (total ratio : Nat) : Nat := total * ratio / 1000

/-- Channel 1, 2 or 3: the one whose ratio is largest, the lowest-numbered of equals (R83, step 3). -/
def largestChannel (b : Blend) : Nat :=
  if b.ratio2 ≤ b.ratio1 ∧ b.ratio3 ≤ b.ratio1 then 1 else if b.ratio3 ≤ b.ratio2 then 2 else 3

/-- The total flow for n holders (R83, step 1). -/
def splitTotal (l : LimitBlock) (b : Blend) (n : Nat) : Nat := min (b.flow * n) l.totalMax

/-- What the truncations of step 2 leave of the total (R83, step 3). -/
def splitRemainder (b : Blend) (total : Nat) : Nat :=
  total - (share total b.ratio1 + share total b.ratio2 + share total b.ratio3)

/-- A channel's flow with the remainder added to the channel of the largest ratio (R83, steps 2 and 3). -/
def channelFlow (b : Blend) (total channel ratio : Nat) : Nat :=
  share total ratio + if largestChannel b = channel then splitRemainder b total else 0

/-- The flow split of a blend for n holders (R83). -/
def flowSplit (l : LimitBlock) (b : Blend) (n : Nat) : Dose :=
  let total := splitTotal l b n
  { dose1 := min (channelFlow b total 1 b.ratio1) l.dose1Max
    dose2 := min (channelFlow b total 2 b.ratio2) l.dose2Max
    dose3 := min (channelFlow b total 3 b.ratio3) l.dose3Max
    rinse := min b.rinse l.rinseMax }

/-- No flow at all: idle values, and an entry without a blend (R77, R82). -/
def noFlow : Dose := { dose1 := 0, dose2 := 0, dose3 := 0, rinse := 0 }

/-- The dosing unit writes its four values, in ACTIVE mode alone; they become its current setpoints (R82). -/
def writeDosing (d : Dose) (s : State) : State :=
  if s.active then
    writeSlots [(.dose1, d.dose1), (.dose2, d.dose2), (.dose3, d.dose3), (.rinse, d.rinse)]
      { s with dose := { s.dose with current := some d } }
  else s

/-- The values for an entry with n holders: the split of its blend, or zeros when it names none (R75, R82). -/
def entryDose (s : State) (e n : Nat) : Dose :=
  match ((tableGet s.arb.table e).bind PadService.blend).bind (tableGet s.dose.blends) with
  | some b => flowSplit s.lim b n
  | none => noFlow

/-- Dosing for an entry with n holders (R73, R74, R75). -/
def doseEntry (e n : Nat) (s : State) : State := writeDosing (entryDose s e n) s

end Sys2Proof.Machine
end

