-- ==== Sys2Proof/Machine/Conditioning.lean ====
section
/-! DEFINITION. The conditioner unit's run: start, travel, arrival, stop (chapter 5, R88 to R95). -/

namespace Sys2Proof.Machine

def State.setRun (s : State) (r : Option CondRun) : State := { s with cdr := { s.cdr with run := r } }

/-- The segment numbered n (from 1) of a program (R86). -/
def segmentAt (p : CondProgram) (n : Nat) : Option Segment :=
  if n = 0 then none else p.segments[n - 1]?

/-- TRAVEL at segment n: the clamped target is written to ARM and the arrival timer starts (R90). -/
def enterTravel (run : CondRun) (n : Nat) (seg : Segment) (s : State) : State :=
  let target := clampNat s.lim.armMin s.lim.armMax seg.position
  let s := writeSlot .arm target s
  s.setRun (some { run with
    segment := n, target := target
    phase := .travel (some (deadlineAfter s.base.time s.lim.arrivalTimeout)) })

/-- A program starts: FORCE and DISK are written once, clamped, and the arm travels to segment 1 (R89). -/
def startProgram (k : Nat) (s : State) : State :=
  match tableGet s.cdr.programs k with
  | none => s
  | some p =>
    match segmentAt p 1 with
    | none => s
    | some seg =>
      let force := min p.force s.lim.forceMax
      let speed := min p.speed s.lim.diskMax
      let s := writeSlot .disk speed (writeSlot .force force s)
      enterTravel
        { program := k, force, speed, segment := 1, phase := .travel none, target := 0, passes := 0 } 1 seg s

/-- The conditioner step of starting an entry: its program, or FORCE and DISK 0 and the arm parked (R75, step 3). -/
def conditionEntry (e : Nat) (s : State) : State :=
  match (tableGet s.arb.table e).bind PadService.program with
  | some k => startProgram k s
  | none => writeSlots [(.force, 0), (.disk, 0), (.arm, s.lim.park)] s

/-- A running program is stopped: the unit is IDLE and holds none of the parts of R88; no slot is written (R95). -/
def stopProgram (s : State) : State := s.setRun none

/-- An ARM status qualifies: ready, and within the arm tolerance of the target (R91). -/
def armArrived (s : State) (run : CondRun) (st : NodeStatus) : Bool :=
  st.ready && decide (((st.measured : Int) - s.offset .arm - run.target).natAbs ≤ s.lim.armTolerance)

/-- An ARM status record reaches the conditioner unit (R91). -/
def armStatus (st : NodeStatus) (s : State) : State :=
  match s.cdr.run with
  | none => s
  | some run =>
    match run.phase with
    | .dwell _ => s
    | .travel _ =>
      if armArrived s run st then
        match (tableGet s.cdr.programs run.program).bind fun p => segmentAt p run.segment with
        | none => s
        | some seg => s.setRun (some { run with phase := .dwell (deadlineAfter s.base.time seg.dwell) })
      else s

end Sys2Proof.Machine
end

