-- ==== Sys2Proof/Machine/Sequencer.lean ====
section
/-! DEFINITION. The head sequencer's own work: hold pressures, POLISHING entry, polishing intervals, timers, pause and
resume (chapter 1). -/

namespace Sys2Proof.Machine

/-- Hold pressures of the limit block (R7). -/
def holdPressures (l : LimitBlock) : PerArea Nat := PerArea.tabulate fun x => (l.areas.get x).hold

/-- The slot writes of a set of pressures for a head, in order Z1 to Z6, RING. -/
def pressureWrites (h : Head) (p : PerArea Nat) : List (Fn × Nat) := Area.all.map fun x => (Fn.head h x, p.get x)

/-- All seven commanded pressures of a head become `p`, and each is written into its slot (R7). -/
def commandAll (h : Head) (p : PerArea Nat) (s : State) : State :=
  writeSlots (pressureWrites h p)
    (s.setSeq h { s.seq h with commanded := PerArea.tabulate fun x => some (p.get x) })

/-- Writing the hold pressures (R7). -/
def writeHoldPressures (h : Head) (s : State) : State := commandAll h (holdPressures s.lim) s

/-- The base pressures of a step, each clamped to its effective bounds (R11). -/
def basePressures (st : StepRecord) : PerArea Nat :=
  PerArea.tabulate fun x => clampNat (st.bounds.get x).lo (st.bounds.get x).hi (st.base.get x)

/-- The step uses the sample-gap timer (R13). -/
def StepRecord.watched (st : StepRecord) : Bool := st.control.isSome || st.endpoint.isSome

/-- A fresh sample-gap timer, when the step has a control or endpoint section (R13). -/
def freshGap (s : State) (st : StepRecord) : Option Time :=
  if st.watched then some (deadlineAfter s.base.time s.lim.sampleGapTimeout) else none

/-- The sample unit discards a head's open sweep, empties its history and zeroes its counter (R39, R48, R50). -/
def clearSweeps (h : Head) (s : State) : State :=
  s.setSampler h { s.sampler h with openSweep := none, counter := 0, history := [] }

/-- POLISHING entry of a head (R11, R48, R65). -/
def polishingEntry (h : Head) (s : State) : State :=
  match s.currentStep h with
  | none => s
  | some st =>
    let s := (clearSweeps h (commandAll h (basePressures st) s)).setComp h none
    let q := s.seq h
    s.setSeq h { q with
      state := .polishing
      timer := .running (deadlineAfter s.base.time st.limit)
      gap := freshGap s st
      current := q.current.map fun c => { c with interval := some s.base.time, polished := true } }

/-- The polishing time of the in-progress part, the open interval included (R25, R27). -/
def polishingTime (now : Time) (c : InProgress) : Nat :=
  c.time + match c.interval with
    | none => 0
    | some t => elapsed now t

/-- The open polishing interval is closed and added to the step's polishing time (R25). -/
def closeInterval (now : Time) (q : Sequencer) : Sequencer :=
  { q with current := q.current.map fun c => { c with time := polishingTime now c, interval := none } }

/-- Both timers of a head stop (R12, R13). -/
def stopTimers (q : Sequencer) : Sequencer := { q with timer := .stopped, gap := none }

/-- The step timer at a pause (R12). -/
def freezeTimer (now : Time) : StepTimer → StepTimer
  | .running d => .frozen (remainingTime now d)
  | t => t

/-- The step timer at a resumption (R12). -/
def thawTimer (now : Time) : StepTimer → StepTimer
  | .frozen r => .running (deadlineAfter now r)
  | t => t

/-- A polishing head enters PAUSED: by PAUSE_HEAD or a PAUSE action (R16, R22). -/
def pauseHead (h : Head) (s : State) : State :=
  let q := closeInterval s.base.time (s.seq h)
  s.setSeq h { q with state := .paused, timer := freezeTimer s.base.time q.timer, gap := none }

/-- A PAUSE action reaches a head (R22). -/
def pauseAction (h : Head) (s : State) : State :=
  if (s.seq h).state = .polishing then pauseHead h s else s

/-- A paused head returns to POLISHING (R17). -/
def resumeHead (h : Head) (s : State) : State :=
  let q := s.seq h
  s.setSeq h { q with
    state := .polishing
    timer := thawTimer s.base.time q.timer
    gap := (s.currentStep h).bind (freshGap s)
    current := q.current.map fun c => { c with interval := some s.base.time } }

/-- Final zone means: those of the newest record of the history, if the step has closed a sweep since its POLISHING
entry (R26). -/
def finalMeans (p : Sampler) (c : InProgress) : PerZone (Option Nat) :=
  PerZone.tabulate fun z =>
    if c.polished then p.history.getLast?.bind fun r => (r.zones.get z).map ZoneMean.mean else none

/-- The step result built from the in-progress part (R26). -/
def stepResult (s : State) (h : Head) (cause : EndCause) (c : InProgress) : StepResult :=
  { step := c.step, cause, duration := c.time, sweeps := c.sweeps
    cleared := (s.seq h).cleared, means := finalMeans (s.sampler h) c }

end Sys2Proof.Machine
end

