-- ==== Sys2Proof/Machine/Arbiter.lean ====
section
/-! DEFINITION. The pad service arbiter: request, release, withdrawal, handover, station hold and its end (chapter 4). -/

namespace Sys2Proof.Machine

def State.setArb (s : State) (a : Arbiter) : State := { s with arb := a }

/-- How many heads hold the service. -/
def holderCount (p : Pair Bool) : Nat := p.a.toNat + p.b.toNat

/-- The idle values: no flow, FORCE and DISK 0, the arm parked (R77). -/
def writeIdleValues (s : State) : State :=
  let s := writeDosing noFlow s
  writeSlots [(.force, 0), (.disk, 0), (.arm, s.lim.park)] s

/-- The hold values: no slurry, the hold rinse flow, FORCE and DISK 0, the arm parked (R78, step 4; R80). -/
def writeHoldValues (s : State) : State :=
  let s := writeDosing { dose1 := 0, dose2 := 0, dose3 := 0, rinse := s.lim.holdRinse } s
  writeSlots [(.force, 0), (.disk, 0), (.arm, s.lim.park)] s

/-- A new grant of entry e to head h: PAD_GRANTED, dosing, conditioner (R73, R75, steps 1 to 3). -/
def startEntry (h : Head) (e : Nat) (s : State) : State :=
  let s := s.setArb { s.arb with
    service := some { entry := e, holders := Pair.set ⟨false, false⟩ h true, time := s.base.time } }
  conditionEntry e (doseEntry e 1 (queueEvent .padGranted (some h) [dv e, dv 1] s))

/-- A grant reaches a waiting head; a head not in WAIT_PAD is left unchanged (R10, R74, R79). -/
def grantWaiting (h : Head) (s : State) : State :=
  if (s.seq h).state = .waitPad then polishingEntry h s else s

/-- Head h joins the holders of a granted entry: PAD_GRANTED, and dosing for the new count (R73). -/
def joinService (h : Head) (g : Grant) (s : State) : State :=
  let holders := g.holders.set h true
  let s := s.setArb { s.arb with service := some { g with holders } }
  doseEntry g.entry (holderCount holders)
    (queueEvent .padGranted (some h) [dv g.entry, dv (holderCount holders)] s)

/-- Head h releases the service it holds: dosing for the remaining holder, handover to the first waiting head, or FREE
with the idle values (R74). -/
def releasePad (h : Head) (s : State) : State :=
  match s.arb.service with
  | none => s
  | some g =>
    if g.holders.get h then
      let holders := g.holders.set h false
      if holders.a || holders.b then
        doseEntry g.entry (holderCount holders) (s.setArb { s.arb with service := some { g with holders } })
      else
        match s.arb.waiting with
        | (w, e) :: rest =>
          grantWaiting w (startEntry w e (stopProgram (s.setArb { s.arb with service := none, waiting := rest })))
        | [] => writeIdleValues (stopProgram (s.setArb { s.arb with service := none }))
    else s

/-- A head withdraws as waiter (R76). -/
def withdraw (h : Head) (s : State) : State :=
  s.setArb { s.arb with waiting := s.arb.waiting.filter fun w => decide (w.1 ≠ h) }

/-- A head whose request is not granted waits: it is appended to the waiting list and enters WAIT_PAD (R10, R73). -/
def enterWaitPad (h : Head) (e : Nat) (s : State) : State :=
  let s := writeHoldPressures h (s.setArb { s.arb with waiting := s.arb.waiting ++ [(h, e)] })
  s.setSeq h { s.seq h with state := .waitPad }

/-- A head that holds a different entry releases it before it requests (R9, R73). -/
def releaseOther (h : Head) (e : Nat) (s : State) : State :=
  if grantedEntry s = some e then s else releasePad h s

/-- The arbiter decides a request on the state it finds (R73). -/
def decideRequest (h : Head) (e : Nat) (s : State) : State :=
  if s.arb.hold then enterWaitPad h e s
  else
    match s.arb.service with
    | none => polishingEntry h (startEntry h e s)
    | some g =>
      if g.entry = e then
        if g.holders.get h then polishingEntry h s else polishingEntry h (joinService h g s)
      else enterWaitPad h e s

/-- A head at step entry requests its step's entry (R73). -/
def requestPad (h : Head) (e : Nat) (s : State) : State := decideRequest h e (releaseOther h e s)

/-- Station hold begins; while it is on, it begins again as a rewrite of the hold values alone (R78, R80). -/
def beginHold (s : State) : State :=
  if s.arb.hold then writeHoldValues s
  else
    queueEvent .stationHold none []
      (writeHoldValues (stopProgram (s.setArb { s.arb with service := none, hold := true })))

/-- The second waiting head joins when it waits for the entry just granted (R79, step 4). -/
def joinSecond (e : Nat) (s : State) : State :=
  match s.arb.waiting, s.arb.service with
  | (w, e') :: rest, some g =>
    if e' = e then grantWaiting w (joinService w g (s.setArb { s.arb with waiting := rest })) else s
  | _, _ => s

/-- Station hold ends: HOLD_RELEASED, then the idle values or a grant to the first waiting head (R79). -/
def endHold (s : State) : State :=
  if s.arb.hold then
    let s := queueEvent .holdReleased none [] (s.setArb { s.arb with hold := false })
    match s.arb.waiting with
    | [] => writeIdleValues s
    | (w, e) :: rest =>
      joinSecond e (grantWaiting w (startEntry w e (s.setArb { s.arb with waiting := rest })))
  else s

end Sys2Proof.Machine
end

