-- ==== Sys2Proof/Machine/StoreOps.lean ====
section
/-! DEFINITION. The parameter store's shared operations: loading the working copies, the internal WEAR write, and the
completion of a programming (chapter 10). -/

namespace Sys2Proof.Machine

def State.setStore (s : State) (x : ParameterStore) : State := { s with store := x }

/-- The contents of a VALID record (R183). -/
def validContents {α : Type} : Stored α → Option α
  | .valid c => some c
  | _ => none

/-- SENSOR_CAL, CHANNEL_CAL and PROTECT working copies from the records, with the defaults of R185 (R185, R191). -/
def loadCopies (x : ParameterStore) : ParameterStore :=
  { x with
    cal := validContents x.sensorRec
    offsets := (validContents x.channelRec).getD (PerFn.fill 0)
    protect := (validContents x.protectRec).getD { sensor := false, channel := false } }

/-- The live counters from the WEAR record (R185). -/
def loadLive (x : ParameterStore) : ParameterStore := { x with live := (validContents x.wearRec).getD noWear }

/-- The sample unit discards the open sweep of each head, without a record (R34, R48). -/
def discardOpenSweeps (s : State) : State :=
  { s with samplers :=
      ⟨{ s.samplers.a with openSweep := none }, { s.samplers.b with openSweep := none }⟩ }

/-- The internal WEAR write starts: the engine programs WEAR with the live counters as they stand (R190). -/
def startWearWrite (x : ParameterStore) : ParameterStore :=
  { x with engine := some { contents := .wear x.live, origin := .internal }, wearPending := false }

/-- An internal WEAR write is requested: it starts at once, or is marked pending (R190). -/
def requestWearWrite (s : State) : State :=
  match s.store.engine with
  | none => s.setStore (startWearWrite s.store)
  | some _ => s.setStore { s.store with wearPending := true }

/-- The record a content belongs to. -/
def Contents.record : Contents → RecordName
  | .sensorCal _ => .sensorCal
  | .channelCal _ => .channelCal
  | .wear _ => .wear
  | .protect _ => .protect

/-- A record becomes VALID with the programmed contents (R189). -/
def storeValid (x : ParameterStore) : Contents → ParameterStore
  | .sensorCal c => { x with sensorRec := .valid c }
  | .channelCal c => { x with channelRec := .valid c }
  | .wear c => { x with wearRec := .valid c }
  | .protect c => { x with protectRec := .valid c }

/-- A record whose programming was cut off becomes INVALID (R192). -/
def storeInvalid (x : ParameterStore) : Contents → ParameterStore
  | .sensorCal _ => { x with sensorRec := .invalid }
  | .channelCal _ => { x with channelRec := .invalid }
  | .wear _ => { x with wearRec := .invalid }
  | .protect _ => { x with protectRec := .invalid }

/-- DONE raises the live wafer count, which stops at 4,294,967,295 (R20, R184). -/
def raiseWafers (s : State) : State :=
  s.setStore { s.store with live := { s.store.live with wafers := min (s.store.live.wafers + 1) Config.longMax } }

end Sys2Proof.Machine
end

