-- ==== Sys2Proof/Machine/Steps.lean ====
section
/-! DEFINITION. Step entry, step end, DONE, abort and the HOLD action: the transitions of a head in which sequencer,
arbiter and store take part (chapter 1). -/

namespace Sys2Proof.Machine

/-- Step entry at the current step position (R9). -/
def stepEntry (h : Head) (s : State) : State :=
  match currentIndex (s.seq h), s.currentStep h with
  | some i, some st =>
    let q := s.seq h
    let s := s.setSeq h { q with
      confirm := PerZone.fill 0
      cleared := PerZone.fill false
      current := some { step := i, time := 0, sweeps := 0, interval := none, polished := false } }
    let s := queueEvent .stepEntered (some h) [dv (q.position.getD 0), dv i] s
    match st.pad with
    | none => polishingEntry h (releasePad h s)
    | some e => requestPad h e s
  | _, _ => s

/-- Sum of the polishing times of the step results (R20). -/
def totalDuration (rs : List StepResult) : Nat := (rs.map StepResult.duration).sum

/-- Entry to DONE (R20). -/
def enterDone (h : Head) (s : State) : State :=
  let s := writeHoldPressures h (releasePad h s)
  let s := s.setSeq h { s.seq h with state := .done, current := none }
  let rs := (s.seq h).results
  let s := queueEvent .headDone (some h) [dv rs.length, durationWord (totalDuration rs)] s
  requestWearWrite (raiseWafers s)

/-- The current step is closed: timers stopped, interval closed, result appended, STEP_ENDED queued (R19, steps 1 to
4). -/
def closeStep (h : Head) (cause : EndCause) (s : State) : State :=
  let s := s.setSeq h (closeInterval s.base.time (stopTimers (s.seq h)))
  match (s.seq h).current with
  | none => s
  | some c =>
    let q := s.seq h
    let s := s.setSeq h { q with results := q.results ++ [stepResult s h cause c], current := none }
    queueEvent .stepEnded (some h) [dv c.step, dv (causeCode cause), durationWord c.time] s

/-- A step ends with a cause; the next step's entry or DONE follows (R19). -/
def endStep (h : Head) (cause : EndCause) (s : State) : State :=
  let s := closeStep h cause s
  let q := s.seq h
  match q.program, q.position with
  | some p, some n =>
    if n < p.length then stepEntry h (s.setSeq h { q with position := some (n + 1) }) else enterDone h s
  | _, _ => s

/-- The claim of a head on the pad is given up: a waiting head withdraws, another releases what it holds (R21, R23). -/
def leavePad (h : Head) (s : State) : State :=
  if (s.seq h).state = .waitPad then withdraw h s else releasePad h s

/-- The abort of a working head (R21, R24). -/
def abortHead (h : Head) (s : State) : State :=
  let s := writeHoldPressures h (leavePad h s)
  let q := closeInterval s.base.time (stopTimers (s.seq h))
  let s := s.setSeq h { q with state := .aborted }
  match q.current with
  | none => s
  | some c =>
    let s := queueEvent .headAborted (some h)
      [dv (q.position.getD 0), dv c.step, durationWord c.time] s
    let q := s.seq h
    s.setSeq h { q with results := q.results ++ [stepResult s h .abort c], current := none }

/-- The abort that ABORT_ALL gives each head: a head that does not work is unchanged (R24). -/
def abortIfWorking (h : Head) (s : State) : State := if headWorking s h then abortHead h s else s

/-- A HOLD action reaches a head: one in WAIT_PAD, POLISHING or PAUSED enters HOLD (R23). -/
def holdAction (h : Head) (s : State) : State :=
  match (s.seq h).state with
  | .waitPad | .polishing | .paused =>
    let s := leavePad h s
    let s := s.setSeq h { closeInterval s.base.time (stopTimers (s.seq h)) with state := .hold }
    writeHoldPressures h s
  | _ => s

/-- SKIP_STEP of a head in WAIT_PAD, POLISHING or PAUSED (R18). -/
def skipStep (h : Head) (s : State) : State :=
  endStep h .skip (if (s.seq h).state = .waitPad then withdraw h s else s)

end Sys2Proof.Machine
end

