-- ==== Sys2Proof/Machine/Conditions.lean ====
section
/-! DEFINITION. The condition unit: occurrences, presence, the taking run and its actions, the fall of the level; and
station reset, which a RESET action performs (chapter 8, R180). -/

namespace Sys2Proof.Machine

/-! Source data (R139, R152, R198). -/

/-- Values 2 and 3 of CONDITION_TAKEN for a source's data (R198). -/
def dataWords : Option SourceData → BitVec 32 × BitVec 32
  | none => (0, 0)
  | some (.function f) => (dv (fnCode f), 0)
  | some (.step i) => (dv i, 0)
  | some (.arm p seg target) => (dv (p * 65536 + seg), dv target)
  | some (.mismatch f applied node) => (dv (fnCode f), dv (applied * 65536 + node))
  | some (.wear c) => (dv c, 0)
  | some (.queue q) => (dv (queueCode q), 0)
  | some (.record r) => (dv (recordCode r), 0)
  | some (.limit h z u) => (dv (headCode h * 256 + zoneCode z), BitVec.ofInt 32 u)
  | some (.simulated h v) => (dv (headFieldCode h * 256), dv v)

/-- The simulation mark of R152. -/
def isSimulated : Option SourceData → Bool
  | some (.simulated _ _) => true
  | _ => false

/-- The head of a source's scope: fixed for sources 3 to 8, named in its data for LIMIT_REACHED (R138, R145). -/
def scopeHead : SourceId → Option SourceData → Option Head
  | .pressureDevA, _ | .stepTimeoutA, _ | .sampleGapA, _ => some .a
  | .pressureDevB, _ | .stepTimeoutB, _ | .sampleGapB, _ => some .b
  | .limitReached, some (.limit h _ _) => some h
  | .limitReached, some (.simulated h _) => h
  | _, _ => none

/-- Value 1 of CONDITION_TAKEN: source, severity, action, previous level, one byte each, and the simulation mark in the
most significant bit (R198). -/
def takenWord (k : SourceId) (x : Source) (previous : Nat) : BitVec 32 :=
  dv ((sourceNumber k + if isSimulated x.data then 128 else 0) * 16777216 + x.severity * 65536 +
    actionCode x.action * 256 + previous)

/-- The data of a CONDITION_TAKEN record (R145, R198); three values always (log 23). -/
def takenData (k : SourceId) (x : Source) (previous : Nat) : List (BitVec 32) :=
  [takenWord k x previous, (dataWords x.data).1, (dataWords x.data).2]

/-! Taking (R143 to R147). -/

/-- A source is eligible in a taking run: enabled, PENDING, severity above L (R143). -/
def takeable (s : State) (k : SourceId) : Bool :=
  (s.source k).enabled && decide ((s.source k).state = .pending) && decide (s.cu.level < (s.source k).severity)

/-- The better of two candidates, the first of them lower numbered: the higher severity, else the first (R143). -/
def moreSevere (s : State) (best : Option SourceId) (k : SourceId) : Option SourceId :=
  match best with
  | none => some k
  | some b => if (s.source b).severity < (s.source k).severity then some k else some b

/-- The source a taking run takes next (R143). -/
def nextTaken (s : State) : Option SourceId :=
  (SourceId.all.filter (takeable s)).foldl (moreSevere s) none

/-- The action is RESET, taken in ACTIVE mode (R143, R148). -/
def resetsStation (s : State) (x : Source) : Bool := decide (x.action = .reset) && s.active

/-- Steps 1 and 2 of a taking: L is pushed and becomes the severity; the source is SERVED (R143). -/
def raiseLevel (k : SourceId) (s : State) : State :=
  ({ s with cu := { s.cu with level := (s.source k).severity, stack := s.cu.stack ++ [s.cu.level] } }).setSource k
    { s.source k with state := .served }

/-- Steps 1 to 3 of a taking (R143, R145). -/
def takeSource (k : SourceId) (s : State) : State :=
  let t := raiseLevel k s
  if resetsStation s (s.source k) then t
  else
    queueEvent .conditionTaken (scopeHead k (s.source k).data) (takenData k (s.source k) s.cu.level) t

/-- Step 4 of a taking, for the actions NOTE, PAUSE and HOLD (R146, R147). -/
def applyAction (k : SourceId) (s : State) : State :=
  match (s.source k).action, scopeHead k (s.source k).data with
  | .pause, some h => pauseAction h s
  | .pause, none => pauseAction .b (pauseAction .a s)
  | .hold, some h => holdAction h s
  | .hold, none => holdAction .b (holdAction .a (beginHold s))
  | .note, _ => s
  | .reset, _ => s

/-- A taking run: `act` is step 4 for the other actions, `reset` the RESET action in ACTIVE mode, which ends the run
(R143). Each taking makes one of the 16 sources SERVED, so the run takes at most 16. -/
def takingRunWith (act reset : SourceId → State → State) : Nat → State → State
  | 0, s => s
  | fuel + 1, s =>
    match nextTaken s with
    | none => s
    | some k =>
      if resetsStation s (s.source k) then reset k (takeSource k s)
      else takingRunWith act reset fuel (act k (takeSource k s))

/-- The most takings of one run. -/
def takingFuel : Nat := 16

/-- The taking run of a station that is TRANSPARENT, where RESET performs no reset (R148). -/
def takingRunTransparent (s : State) : State := takingRunWith applyAction (fun _ t => t) takingFuel s

/-! Occurrences and presence (R140, R141). -/

/-- An occurrence reaches an edge source (R140); a source that becomes PENDING starts a taking run. -/
def occurrenceWith (run : State → State) (k : SourceId) (d : SourceData) (s : State) : State :=
  match (s.source k).state with
  | .idle => run (s.setSource k { s.source k with state := .pending, data := some d })
  | .pending | .served => s

/-- A report of the beginning of presence (R141). -/
def beginPresenceWith (run : State → State) (k : SourceId) (d : Option SourceData) (s : State) : State :=
  let x := s.source k
  if x.real then s
  else if x.sim then s.setSource k { x with real := true }
  else run (s.setSource k { x with real := true, state := .pending, data := d })

/-- A report of the loss of presence (R141): it starts no taking run. -/
def losePresence (k : SourceId) (s : State) : State :=
  let x := s.source k
  if x.real then
    if x.sim then s.setSource k { x with real := false }
    else s.setSource k { x with real := false, state := .idle, data := none }
  else s

/-- The simulation flag is set (R152, R141). -/
def beginSimulationWith (run : State → State) (k : SourceId) (v : Nat) (s : State) : State :=
  let x := s.source k
  if x.sim then s
  else if x.real then s.setSource k { x with sim := true }
  else run (s.setSource k { x with sim := true, state := .pending, data := some (.simulated none v) })

/-- The simulation flag is cleared (R151, R141). -/
def endSimulation (k : SourceId) (s : State) : State :=
  let x := s.source k
  if x.real then s.setSource k { x with sim := false }
  else s.setSource k { x with sim := false, state := .idle, data := none }

/-! Wear presence (R96). -/

/-- Pad worn is evaluated (R96). -/
def evaluatePadWith (run : State → State) (s : State) : State :=
  let worn := padIsWorn s
  let t := { s with cdr := { s.cdr with padWorn := worn } }
  if worn && !s.cdr.padWorn then beginPresenceWith run .padWorn (some (.wear s.store.live.pad)) t
  else if s.cdr.padWorn && !worn then losePresence .padWorn t
  else s

/-- Disk worn is evaluated (R96). -/
def evaluateDiskWith (run : State → State) (s : State) : State :=
  let worn := diskIsWorn s
  let t := { s with cdr := { s.cdr with diskWorn := worn } }
  if worn && !s.cdr.diskWorn then beginPresenceWith run .diskWorn (some (.wear s.store.live.disk)) t
  else if s.cdr.diskWorn && !worn then losePresence .diskWorn t
  else s

/-! Station reset (R180), block by block. -/

/-- A head sequencer at station reset (R29). -/
def stationResetSequencer (q : Sequencer) : Sequencer :=
  { resetSequencer with state := if q.program.isSome then .ready else .empty, program := q.program }

/-- The sample unit of a head at station reset (R50). -/
def stationResetSampler (p : Sampler) : Sampler := { p with openSweep := none, counter := 0, history := [] }

/-- A function at station reset (R118). -/
def stationResetFn (x : FnState) : FnState := { x with echo := 0, dev := .inBand, clamped := false }

/-- A source at station reset (R159). -/
def stationResetSource (x : Source) : Source :=
  { x with state := .idle, data := none, real := false, sim := false }

/-- The management unit at station reset (R180); what it holds back stays held back, and the reset is noted (log 26). -/
def stationResetManagement (m : Management) : Management :=
  { m with mode := .transparent, requests := [], responses := [], events := [], dropped := false, supTimer := none,
           supLoss := false, resetTaken := true }

/-- Every block takes the station reset (R29, R50, R69, R85, R99, R118, R134, R159, R180, R193). -/
def stationResetBlocks (s : State) : State :=
  { s with
    portU := { s.portU with tx := .free }
    portD := { s.portD with tx := .free }
    fwd := { down := [], up := [] }
    fmap := { s.fmap with fns := PerFn.tabulate fun f => stationResetFn (s.fmap.fns.get f) }
    slots := PerFn.fill none
    samplers := ⟨stationResetSampler s.samplers.a, stationResetSampler s.samplers.b⟩
    seqs := ⟨stationResetSequencer s.seqs.a, stationResetSequencer s.seqs.b⟩
    comps := ⟨none, none⟩
    arb := { s.arb with service := none, waiting := [], hold := false }
    dose := { s.dose with current := none }
    cdr := { s.cdr with run := none, padWorn := false, diskWorn := false }
    cu := { sources := PerSource.tabulate fun k => stationResetSource (s.cu.sources.get k), level := 0, stack := [] }
    mgmt := stationResetManagement s.mgmt }

/-- What follows the reset: the STATION_RESET record, and the reports of the blocks that still find a level condition
(R134, R159, R99, R180). -/
inductive ResetItem where
  | record | portLoss | padWear | diskWear
deriving DecidableEq, Repr

/-- The items that follow a reset of this state. -/
def resetItems (s : State) : List ResetItem :=
  [.record] ++ (if s.portD.link = .online then [] else [.portLoss]) ++ (if padIsWorn s then [.padWear] else []) ++
    (if diskIsWorn s then [.diskWear] else [])

/-- One item after the reset: the record, or a report, whose taking cannot reset a TRANSPARENT station again (R148). -/
def resetItem (cause : List (BitVec 32)) (s : State) : ResetItem → State
  | .record => queueEvent .stationReset none cause s
  | .portLoss => beginPresenceWith takingRunTransparent .portDLoss none s
  | .padWear => evaluatePadWith takingRunTransparent s
  | .diskWear => evaluateDiskWith takingRunTransparent s

/-- A station reset with the data of its STATION_RESET record. The record and the reports reach the event queue in an
order the spec leaves open (R180): a free order (log 11). -/
def stationReset (cause : List (BitVec 32)) (s : State) : State :=
  let t := stationResetBlocks s
  let items := resetItems t
  (freeOrder t items).foldl (resetItem cause) (t.choicesTaken items.length)

/-- Cause REQUEST with the origin (R178, R198); three values, the third of them 0: DEDUCED (log 23). -/
def requestCause (origin : Nat) : List (BitVec 32) := [dv 1, dv origin, dv 0]

/-- Cause SOURCE with the source number and severity (R178, R198). -/
def sourceCause (k : SourceId) (severity : Nat) : List (BitVec 32) := [dv 2, dv (sourceNumber k), dv severity]

/-- The RESET action of a taken source in ACTIVE mode (R148). -/
def resetAction (k : SourceId) (s : State) : State := stationReset (sourceCause k (s.source k).severity) s

/-! The condition unit at work. -/

/-- The taking run (R143). -/
def takingRun (s : State) : State := takingRunWith applyAction resetAction takingFuel s

/-- The taking run of an occurrence raised inside a sweep close: the action of LIMIT_REACHED waits for the end of the
close (R51, R147): DEDUCED (log 25). -/
def deferLimitAction (k : SourceId) (s : State) : State := if k = .limitReached then s else applyAction k s

def takingRunInClose (s : State) : State := takingRunWith deferLimitAction resetAction takingFuel s

/-- An occurrence of an edge source (R140). -/
def occurrence (k : SourceId) (d : SourceData) (s : State) : State := occurrenceWith takingRun k d s

/-- The beginning of presence of a level source (R141). -/
def beginPresence (k : SourceId) (d : Option SourceData) (s : State) : State := beginPresenceWith takingRun k d s

/-- Both wear presences begin at one evaluation: two reports that may be taken in either order (R139). -/
def bothWearBegin (s : State) : Bool := padIsWorn s && !s.cdr.padWorn && (diskIsWorn s && !s.cdr.diskWorn)

/-- Wear presence is evaluated (R96). Two reports of one evaluation come in a free order (log 32). -/
def evaluateWear (s : State) : State :=
  if bothWearBegin s && decide (pickIndex s.choice 2 = 1) then
    evaluatePadWith takingRun (evaluateDiskWith takingRun (s.choicesTaken 1))
  else evaluateDiskWith takingRun (evaluatePadWith takingRun (if bothWearBegin s then s.choicesTaken 1 else s))

/-- A SERVED level source that is still present and lies above L becomes PENDING again (R144). -/
def rependSource (level : Nat) (k : SourceId) (x : Source) : Source :=
  if isLevel k && decide (x.state = .served) && x.present && decide (level < x.severity) then
    { x with state := .pending }
  else x

/-- Every source at a fall of L (R144). -/
def repend (s : State) : State :=
  { s with cu := { s.cu with
      sources := PerSource.tabulate fun k => rependSource s.cu.level k (s.cu.sources.get k) } }

/-- What a level change brings when L has fallen below `old` (R144, R143). -/
def levelFell (old : Nat) (s : State) : State := if s.cu.level < old then takingRun (repend s) else s

/-! Deviation groups (R115). -/

/-- A function becomes DEVIATED: its group's presence begins when none of the group was DEVIATED (R114, R115). -/
def becomeDeviated (f : Fn) (s : State) : State :=
  let t := s.setFn f { s.fn f with dev := .deviated }
  match deviationSource f with
  | none => t
  | some k => if groupDeviated s k then t else beginPresence k (some (.function f)) t

/-- A function's deviation state becomes IN_BAND and its timer stops; the group's presence is lost when none of it
remains DEVIATED (R114, R115). -/
def returnInBand (f : Fn) (s : State) : State :=
  let t := s.setFn f { s.fn f with dev := .inBand }
  match deviationSource f with
  | none => t
  | some k => if groupDeviated s k && !groupDeviated t k then losePresence k t else t

end Sys2Proof.Machine
end

