-- ==== Sys2Proof/WellFormed.lean ====
section
/-! DEFINITION. Which terms of `Instr` spell a command that can arrive at the part. The meanings are total: they do not
rest on these checks. -/

namespace Sys2Proof

/-- A source address on the station link is 0 to 63 (R119). -/
def addressOk (a : Nat) : Bool := decide (a < 64)

/-- The payload of a frame is at most 120 bytes, so the arguments of a request are at most 118 (R119, R197). -/
def Request.wf (r : Request) : Bool := addressOk r.origin && decide (r.args.length ≤ 118)

/-- Payloads of the row UNKNOWN_REQUEST: fewer than 2 bytes, or a code outside 1 to 34 (R161, R163, R197). -/
def unknownPayload (p : List Byte) : Bool :=
  decide (p.length ≤ 120) &&
    match p with
    | c :: _ :: _ => !(decide (1 ≤ c.toNat) && decide (c.toNat ≤ 34))
    | _ => true

/-- Pressure and flow functions: those with a deviation state (R100, R114). -/
def Fn.monitored : Fn → Bool
  | .head _ _ => true
  | .dose1 | .dose2 | .dose3 | .rinse => true
  | .arm | .force | .disk => false

/-- A command that can arrive. -/
def Instr.wf : Instr → Bool
  | .identify r | .heartbeat r | .readState r | .setMode r | .writeLimits r | .readLimits r | .mapFunction r
  | .loadZoneMap r | .loadStep r | .loadBlend r | .loadConditioning r | .loadPadService r | .loadProgram r
  | .startHead r | .pauseHead r | .resumeHead r | .skipStep r | .abortHead r | .readResult r | .readProfile r
  | .setSource r | .clearSource r | .simulateSource r | .readConditions r | .setLevel r | .resumeLevel r
  | .releaseHold r | .abortAll r | .storeRead r | .storeStage r | .storeCommit r | .storeReload r
  | .replaceConsumable r | .stationReset r => r.wf
  | .unknownRequest o p => addressOk o && unknownPayload p
  | .portUReceive _ | .portDReceive _ => true
  | .lineLoss _ | .transmitEnd _ | .stepTimerExpiry _ | .sampleGapExpiry _ => true
  | .arrivalTimerExpiry | .dwellTimerExpiry => true
  | .deviationDwellExpiry f => f.monitored
  | .supervisionExpiry | .commitCompletion | .hardwareReset | .storeLoadDone => true
  | .resetRelease _ _ => true

end Sys2Proof
end

