-- ==== Sys2Proof/Machine/FunctionMap.lean ====
section
/-! DEFINITION. The function map and the slot unit: status records, echo check, deviation monitor, judging of tool
setpoints, the part's own SETPOINT frames, remapping and TRANSPARENT entry (chapter 6). -/

namespace Sys2Proof.Machine

/-! Node status (R111 to R115). -/

/-- The echo check (R113). -/
def echoCheck (f : Fn) (st : NodeStatus) (s : State) : State :=
  match (s.fn f).lastTx with
  | none => s
  | some tx =>
    if st.ready then
      if st.applied = tx.node then s.setFn f { s.fn f with echo := 0 }
      else if (s.fn f).echo + 1 < 2 then s.setFn f { s.fn f with echo := (s.fn f).echo + 1 }
      else
        occurrence .setpointMismatch (.mismatch f st.applied tx.node) (s.setFn f { s.fn f with echo := 0 })
    else s

/-- Band and dwell of a monitored function (R114). -/
def deviationLimits (l : LimitBlock) : Fn → Nat × Nat
  | .head _ _ => (l.pressureBand, l.pressureDwell)
  | _ => (l.flowBand, l.flowDwell)

/-- A status record is out of band (R114). -/
def outOfBand (s : State) (f : Fn) (st : NodeStatus) : Bool :=
  match (s.fn f).lastTx with
  | none => false
  | some tx => decide ((deviationLimits s.lim f).1 < ((st.measured : Int) - s.offset f - tx.value).natAbs)

/-- The deviation monitor (R114). -/
def monitorDeviation (f : Fn) (st : NodeStatus) (s : State) : State :=
  if outOfBand s f st then
    match (s.fn f).dev with
    | .inBand =>
      s.setFn f { s.fn f with dev := .dwell (deadlineAfter s.base.time (deviationLimits s.lim f).2) }
    | .dwell _ | .deviated => s
  else
    match (s.fn f).dev with
    | .inBand => s
    | .dwell _ | .deviated => returnInBand f s

/-- The function map takes a status record of a node (R111). -/
def takeStatus (node : Nat) (s : State) (r : StatusRecord) : State :=
  match fnAt s node r.channel with
  | none => s
  | some f =>
    let s := s.setFn f { s.fn f with status := some r.status, ready := r.status.ready }
    let s := if s.active then echoCheck f r.status s else s
    let s := if s.active && f.monitored then monitorDeviation f r.status s else s
    if f = .arm then armStatus r.status s else s

/-- The function map takes its copy of a STATUS frame (R111, R196). -/
def takeStatuses (frame : List Byte) (s : State) : State :=
  match recordBytes 6 (framePayload frame) with
  | none => s
  | some bs => (statusRecords bs).foldl (takeStatus (frameSource frame)) s

/-! Judging tool setpoints (R105 to R107). -/

/-- The function value of a node value (R106, R107). -/
def functionValue (s : State) (f : Fn) (node : Nat) : Int := (node : Int) - s.offset f

/-- The node value of a function value (R106, step 3; R110). -/
def nodeValue (s : State) (f : Fn) (v : Int) : Nat := (clampInt 0 65535 (v + s.offset f)).toNat

/-- A tool record's node value after the clamp (R106). -/
def clampedNode (s : State) (f : Fn) (node : Nat) : Nat :=
  let b := limitBounds s.lim f
  nodeValue s f (clampInt b.lo b.hi (functionValue s f node))

/-- A record is judged: what is kept of it, and its function when the clamp changed it (R105, R106). -/
def judgeRecord (s : State) (node : Nat) (r : SetpointRecord) : Option SetpointRecord × Option Fn :=
  match fnAt s node r.channel.toNat with
  | none => (some r, none)
  | some f =>
    if s.active then
      if partAuthority s f then (none, none)
      else
        let v := clampedNode s f r.value
        if v = r.value then (some r, none) else (some { r with value := v }, some f)
    else (some r, none)

/-- Clamped flags are set (R106). -/
def markClamped (fs : List Fn) (s : State) : State :=
  fs.foldl (fun s f => s.setFn f { s.fn f with clamped := true }) s

/-- The last transmitted values of a forwarded frame's records, as it starts (R107). -/
def recordForwarded (node : Nat) (rs : List SetpointRecord) (s : State) : State :=
  rs.foldl (fun s r =>
    match fnAt s node r.channel.toNat with
    | none => s
    | some f =>
      s.setFn f { s.fn f with lastTx := some { node := r.value, value := functionValue s f r.value }, echo := 0 }) s

/-- A frame leaves the downbound queue: the frame to send, if any, and the state with flags and last transmitted values
as its departure and start leave them (R105 to R107). -/
def judgeFrame (frame : List Byte) (s : State) : Option (List Byte) × State :=
  let node := frameDest frame
  if frameKind frame ≠ kindSetpoint ∨ ¬(1 ≤ node ∧ node ≤ 61) then (some frame, s)
  else
    match recordBytes 3 (framePayload frame) with
    | none => if s.active && nodeMapped s node then (none, s) else (some frame, s)
    | some bs =>
      let rs := setpointRecords bs
      let judged := rs.map (judgeRecord s node)
      let kept := judged.filterMap Prod.fst
      let t := markClamped (judged.filterMap Prod.snd) s
      if kept = [] then (none, t)
      else if kept = rs then (some frame, recordForwarded node kept t)
      else
        (some (sealFrame (frameByte frame 0) (frameByte frame 1) (frameByte frame 2) (setpointPayload kept)),
         recordForwarded node kept t)

/-! The part's own SETPOINT frames (R109, R110). -/

/-- The age of a pending slot: its write time against now, modulo the wrap (R1). -/
def slotAge (s : State) (f : Fn) : Nat :=
  match s.slots.get f with
  | none => 0
  | some x => elapsed s.base.time x.written

/-- The older of two slots, the first of equals (R109, step 1). -/
def olderSlot (s : State) (best : Option Fn) (f : Fn) : Option Fn :=
  match best with
  | none => some f
  | some b => if slotAge s b < slotAge s f then some f else some b

/-- The eligible slot with the oldest write time (R109, step 1). -/
def oldestSlot (s : State) : Option Fn := (eligibleSlots s).foldl (olderSlot s) none

/-- The eligible slots of a node, in increasing channel number (R109, steps 2 and 3). -/
def gatheredSlots (s : State) (node : Nat) : List (Nat × Fn) :=
  (List.range 8).filterMap fun c =>
    ((eligibleSlots s).find? fun f => decide ((s.fn f).assign = some ⟨node, c⟩)).map fun f => (c, f)

/-- The record a gathered slot gives (R109, R110). -/
def slotRecord (s : State) (c : Nat) (f : Fn) : SetpointRecord :=
  { channel := BitVec.ofNat 8 c, value := nodeValue s f (((s.slots.get f).map Slot.value).getD 0) }

/-- A gathered slot empties as its frame starts, and its last transmitted values are recorded (R109, R110). -/
def departSlot (s : State) (f : Fn) : State :=
  match s.slots.get f with
  | none => s
  | some x =>
    ({ s with slots := s.slots.set f none }).setFn f
      { s.fn f with lastTx := some { node := nodeValue s f x.value, value := x.value }, echo := 0 }

/-- The part's SETPOINT frame, and the state as its start leaves it (R109, R110). -/
def setpointFrame (s : State) : Option (List Byte × State) :=
  match (oldestSlot s).bind fun f => (s.fn f).assign with
  | none => none
  | some ch =>
    let gathered := gatheredSlots s ch.node
    some (ownFrame ch.node s.base.ownAddr kindSetpoint
            (setpointPayload (gathered.map fun g => slotRecord s g.1 g.2)),
          gathered.foldl (fun s g => departSlot s g.2) s)

/-! Remapping and mode change (R102, R116). -/

/-- A function's new assignment, with its per-channel state reset (R102). -/
def remapFn (f : Fn) (ch : Option NodeChannel) (s : State) : State :=
  let s := returnInBand f s
  s.setFn f { s.fn f with assign := ch, status := none, ready := false, lastTx := none, echo := 0 }

/-- SENSOR's new assignment: the sample unit discards the open sweeps (R102, R48). -/
def remapSensor (ch : Option NodeChannel) (s : State) : State :=
  discardOpenSweeps { s with fmap := { s.fmap with sensor := ch } }

/-- Some key other than `key` holds a node channel (R101, check 3). -/
def channelHeldByOther (s : State) (key : MapKey) (ch : NodeChannel) : Bool :=
  Fn.all.any (fun f => decide ((s.fn f).assign = some ch) && decide (key ≠ .fn f)) ||
    (decide (s.fmap.sensor = some ch) && decide (key ≠ .sensor))

/-- A function at the entry to TRANSPARENT mode (R116). -/
def transparentFn (x : FnState) : FnState := { x with echo := 0, dev := .inBand }

/-- The loss of a deviation group that is present at TRANSPARENT entry (R116, R115). -/
def loseGroup (before : State) (s : State) (k : SourceId) : State :=
  if groupDeviated before k then losePresence k s else s

/-- The slot unit and the function map at the entry to TRANSPARENT mode (R116). -/
def clearMonitors (s : State) : State :=
  [SourceId.pressureDevA, .pressureDevB, .flowDev].foldl (loseGroup s)
    { s with slots := PerFn.fill none
             fmap := { s.fmap with fns := PerFn.tabulate fun f => transparentFn (s.fmap.fns.get f) } }

end Sys2Proof.Machine
end

