-- ==== Sys2Proof/Machine/Control.lean ====
section
/-! DEFINITION. The work at a sweep close of a head: endpoint evaluation and zone pressure control (chapter 3). -/

namespace Sys2Proof.Machine

/-! Endpoint evaluation (R54 to R57). -/

/-- A zone is cleared (R55): cleared set, event, and the cleared pressure within the effective bounds. -/
def clearZone (h : Head) (st : StepRecord) (z : Zone) (cleared : Option Nat) (s : State) : State :=
  let q := s.seq h
  let s := queueEvent .zoneCleared (some h) [dv (zoneCode z)] (s.setSeq h { q with cleared := q.cleared.set z true })
  match cleared with
  | none => s
  | some p =>
    let v := clampNat (st.bounds.get (.zone z)).lo (st.bounds.get (.zone z)).hi p
    let q := s.seq h
    if q.commanded.get (.zone z) = some v then s
    else writeSlot (.head h (.zone z)) v (s.setSeq h { q with commanded := q.commanded.set (.zone z) (some v) })

/-- Endpoint evaluation visits a zone (R54, R55). -/
def visitZone (h : Head) (st : StepRecord) (e : EndpointSection) (r : SweepRecord) (s : State) (z : Zone) : State :=
  match (e.zones.get z).target, r.zones.get z with
  | some target, some m =>
    let q := s.seq h
    if q.cleared.get z then s
    else if m.mean ≤ target + e.margin then
      let count := q.confirm.get z + 1
      let s := s.setSeq h { q with confirm := q.confirm.set z count }
      if e.confirm ≤ count then clearZone h st z (e.zones.get z).cleared s else s
    else s.setSeq h { q with confirm := q.confirm.set z 0 }
  | _, _ => s

/-- Every zone with a target is in the cleared set (R56). -/
def allCleared (e : EndpointSection) (cleared : PerZone Bool) : Bool :=
  Zone.all.all fun z => (e.zones.get z).target.isNone || cleared.get z

/-- The zones are visited in order Z1 to Z6 (R54). -/
def visitZones (h : Head) (st : StepRecord) (e : EndpointSection) (r : SweepRecord) (s : State) : State :=
  Zone.all.foldl (visitZone h st e r) s

/-- The head endpoint is reached between two states of a close: a zone was cleared and now all are (R56). -/
def endpointReached (h : Head) (e : EndpointSection) (before after : State) : Bool :=
  decide ((before.seq h).cleared ≠ (after.seq h).cleared) && allCleared e (after.seq h).cleared

/-- Endpoint evaluation: the state, and whether the head endpoint was reached (R54 to R56). -/
def evaluateEndpoint (h : Head) (st : StepRecord) (r : SweepRecord) (s : State) : State × Bool :=
  match st.endpoint with
  | none => (s, false)
  | some e =>
    let t := visitZones h st e r s
    if endpointReached h e s t then (queueEvent .headEndpoint (some h) [] t, true) else (t, false)

/-! Zone pressure control (R58 to R66). -/

/-- The newest d records of the history (R59). -/
def controlWindow (d : Nat) (history : List SweepRecord) : List SweepRecord := history.drop (history.length - d)

/-- O, when it is not N: the oldest record of the window before N in which the zone is present (R59). -/
def olderRecord (window : List SweepRecord) (z : Zone) : Option (SweepRecord × ZoneMean) :=
  window.dropLast.findSome? fun r => (r.zones.get z).map fun m => (r, m)

/-- A zone entry with a status and the pressure before, all optional fields absent. -/
def bareEntry (status : ZoneStatus) (before : Nat) : ZoneEntry :=
  { status, oNumber := none, rate := none, remaining := none, finish := none, before
    ideal := none, after := none, stepLimited := none, boundClamped := none }

/-- Removal rate over a window of dt ms (R59). -/
def removalRate (meanO meanN dt : Nat) : Int := Int.tdiv (((meanO : Int) - meanN) * 1000) dt

/-- Finish time for a positive rate (R60). -/
def finishTime (remaining : Nat) (rate : Int) : Nat := min (remaining * 1000 / rate.toNat) Config.finishMax

/-- Status, rate, remaining thickness and finish time of a zone (R58 to R60). -/
def rateStage (c : ControlSection) (e : EndpointSection) (window : List SweepRecord) (n : SweepRecord)
    (cleared : PerZone Bool) (before : Nat) (z : Zone) : ZoneEntry :=
  match (e.zones.get z).target with
  | none => bareEntry .noTarget before
  | some target =>
    if cleared.get z then bareEntry .cleared before
    else
      match n.zones.get z with
      | none => bareEntry .absent before
      | some m =>
        let remaining := m.mean - target
        match olderRecord window z with
        | none => { bareEntry .oneRecord before with remaining := some remaining }
        | some (o, mo) =>
          let dt := elapsed n.closed o.closed
          if dt = 0 then
            { bareEntry .zeroInterval before with remaining := some remaining, oNumber := some o.number }
          else
            let rate := removalRate mo.mean m.mean dt
            let x := { bareEntry .slow before with
              remaining := some remaining, oNumber := some o.number, rate := some rate }
            if rate < c.minRate then x
            else { x with status := .corrected, finish := some (finishTime remaining rate) }

/-- The finish times of the corrected set (R61). -/
def finishTimes (zones : PerZone ZoneEntry) : List Nat := zones.toList.filterMap ZoneEntry.finish

/-- The reference time, when the corrected set has two or more zones (R61). -/
def referenceTime (zones : PerZone ZoneEntry) : Option Nat :=
  let ts := finishTimes zones
  if 2 ≤ ts.length then some (ts.sum / ts.length) else none

/-- Outcome of a close (R61). -/
def controlOutcome : Option Nat → ControlOutcome
  | none => .tooFew
  | some 0 => .noReference
  | some _ => .applied

/-- What R62 and R63 compute for a corrected zone. -/
structure Correction where
  ideal     : Nat
  unclamped : Int
  after     : Nat
  limited   : Bool
  clamped   : Bool
deriving DecidableEq, Repr

/-- The correction of a pressure p with finish time t against the reference time (R62, R63). -/
def correction (c : ControlSection) (b : Bounds) (p t reference : Nat) : Correction :=
  let ideal := p * t / reference
  let step := Int.tdiv ((c.gain : Int) * ((ideal : Int) - p)) 256
  let delta := clampInt (-(c.maxStep : Int)) c.maxStep step
  let u := (p : Int) + delta
  { ideal, unclamped := u, after := (clampInt b.lo b.hi u).toNat
    limited := decide (delta ≠ step), clamped := decide (u < b.lo) || decide ((b.hi : Int) < u) }

/-- The fields of a corrected zone's entry (R66). -/
def correctedEntry (x : ZoneEntry) (k : Correction) : ZoneEntry :=
  { x with ideal := some k.ideal, after := some k.after, stepLimited := some k.limited
           boundClamped := some k.clamped }

/-- A corrected zone's LIMIT_REACHED occurrence and its write (R63, R64). -/
def correctZone (h : Head) (z : Zone) (p : Nat) (k : Correction) (s : State) : State :=
  let s :=
    if k.clamped then occurrenceWith takingRunInClose .limitReached (.limit h z k.unclamped) s else s
  if k.after = p then s
  else
    let q := s.seq h
    writeSlot (.head h (.zone z)) k.after
      (s.setSeq h { q with commanded := q.commanded.set (.zone z) (some k.after) })

/-- The correction of a zone of the corrected set; other zones have none (R61, R62). -/
def zoneCorrection (c : ControlSection) (st : StepRecord) (reference : Nat) (x : ZoneEntry) (z : Zone) :
    Option Correction :=
  x.finish.map fun t => correction c (st.bounds.get (.zone z)) x.before t reference

/-- The corrections of a close, one after another in order Z1 to Z6 (R62 to R64). -/
def correctZones (h : Head) (entries : PerZone ZoneEntry) (ks : PerZone (Option Correction)) (s : State) : State :=
  Zone.all.foldl (fun s z =>
    match ks.get z with
    | none => s
    | some k => correctZone h z (entries.get z).before k s) s

/-- The rate stage of all six zones of a head at a close (R58 to R60). -/
def rateStages (h : Head) (c : ControlSection) (e : EndpointSection) (n : SweepRecord) (s : State) :
    PerZone ZoneEntry :=
  let window := controlWindow c.depth (s.sampler h).history
  PerZone.tabulate fun z =>
    rateStage c e window n (s.seq h).cleared
      (((s.seq h).commanded.get (.zone z)).getD Config.absentPressure) z

/-- Zone pressure control on the new record (R58 to R66). -/
def controlZones (h : Head) (st : StepRecord) (c : ControlSection) (e : EndpointSection) (n : SweepRecord)
    (s : State) : State :=
  let entries := rateStages h c e n s
  let reference := referenceTime entries
  let computation : Computation :=
    { number := n.number, closed := n.closed
      window := (controlWindow c.depth (s.sampler h).history).length
      outcome := controlOutcome reference, reference, zones := entries }
  match controlOutcome reference, reference with
  | .applied, some t =>
    let ks := PerZone.tabulate fun z => zoneCorrection c st t (entries.get z) z
    let zones := PerZone.tabulate fun z =>
      match ks.get z with
      | none => entries.get z
      | some k => correctedEntry (entries.get z) k
    (correctZones h entries ks s).setComp h (some { computation with zones })
  | _, _ => s.setComp h (some computation)

/-- Control runs in a step with a control section, which has an endpoint section too (R52, R4). -/
def runControl (h : Head) (st : StepRecord) (n : SweepRecord) (s : State) : State :=
  match st.control, st.endpoint with
  | some c, some e => controlZones h st c e n s
  | _, _ => s

/-! The close (R51, R14). -/

/-- The sweep count of the in-progress part (R14). -/
def recordSweep (h : Head) (n : SweepRecord) (s : State) : State :=
  let q := s.seq h
  s.setSeq h { q with current := q.current.map fun c => { c with sweeps := n.number } }

/-- The sample-gap timer restarts, if the step uses it (R13, R14). -/
def restartGap (h : Head) (st : StepRecord) (s : State) : State :=
  if st.watched then s.setSeq h { s.seq h with gap := freshGap s st } else s

/-- The step ends at its head endpoint in ENDPOINT and ENDPOINT_OR_TIME (R15, R51). -/
def endAtEndpoint (h : Head) (st : StepRecord) (reached : Bool) (s : State) : State :=
  if reached && decide (st.endMode ≠ .time) then endStep h .endpoint s else s

/-- The action of LIMIT_REACHED when it was taken inside the close (R51, R147). -/
def actionAfterClose (before : SourceState) (s : State) : State :=
  if before ≠ .served ∧ (s.source .limitReached).state = .served then applyAction .limitReached s else s

/-- A polishing head takes a close whole (R51). -/
def polishingClose (h : Head) (st : StepRecord) (n : SweepRecord) (s : State) : State :=
  let t := evaluateEndpoint h st n (restartGap h st (recordSweep h n s))
  actionAfterClose (s.source .limitReached).state (endAtEndpoint h st t.2 (runControl h st n t.1))

/-- The sample unit hands a close to the head's sequencer (R47, R14). -/
def handClose (h : Head) (n : SweepRecord) (s : State) : State :=
  match (s.seq h).state with
  | .polishing =>
    match s.currentStep h with
    | none => s
    | some st => polishingClose h st n s
  | .paused => recordSweep h n s
  | .empty | .ready | .waitPad | .hold | .done | .aborted => s

end Sys2Proof.Machine
end

