-- ==== Sys2Proof/Machine/Sampling.lean ====
section
/-! DEFINITION. The sample unit: conversion, binning, sweep framing, sweep records and the history (chapter 2). -/

namespace Sys2Proof.Machine

/-- The exact thickness of a raw value inside the calibrated range (R35, third case). -/
def segmentThickness : List CalPoint → Nat → Int
  | p :: q :: rest, s =>
    if p.raw ≤ s ∧ s < q.raw then
      (p.thick : Int) + Int.tdiv (((s : Int) - p.raw) * ((q.thick : Int) - p.thick)) ((q.raw : Int) - p.raw)
    else segmentThickness (q :: rest) s
  | _, _ => 0

/-- Conversion of a raw value through the calibration points (R35). -/
def convertRaw (points : List CalPoint) (s : Nat) : Nat :=
  match points.head?, points.getLast? with
  | some first, some last =>
    let t : Int :=
      if s ≤ first.raw then first.thick else if last.raw ≤ s then last.thick else segmentThickness points s
    (clampInt 0 200000 t).toNat
  | _, _ => 0

/-- The zone of a radius in a zone map: none for a radius of 600 or more and for X (R33, R36). -/
def zoneOfRadius (map : List (Option Zone)) (radius : Nat) : Option Zone :=
  if radius < 600 then (map[radius / 10]?).join else none

/-- Zone and thickness of a sample that passes the discard tests (R33, R35, R36). -/
def sampleValue (s : State) (map : List (Option Zone)) (r : SampleRecord) : Option (Zone × Nat) :=
  match s.store.cal, zoneOfRadius map r.radius with
  | some points, some z => some (z, convertRaw points r.raw)
  | _, _ => none

/-- An open sweep with nothing in it (R41). -/
def freshSweep : PerZone ZoneSum := PerZone.fill { sum := 0, count := 0 }

/-- A value is accumulated into its zone, unless the zone's count stands at 65,535 (R40). -/
def accumulate (sweep : PerZone ZoneSum) : Option (Zone × Nat) → PerZone ZoneSum
  | none => sweep
  | some (z, t) =>
    let x := sweep.get z
    if x.count < Config.countMax then sweep.set z { sum := x.sum + t, count := x.count + 1 } else sweep

/-- The minimum samples in force for a head (R14, R44). -/
def minimumSamples (s : State) (h : Head) : Nat :=
  match (s.seq h).state with
  | .polishing | .paused => ((s.currentStep h).map StepRecord.minSamples).getD 3
  | .empty | .ready | .waitPad | .hold | .done | .aborted => 3

/-- A zone's entry in a sweep record (R44). -/
def zoneMean (minimum : Nat) (x : ZoneSum) : Option ZoneMean :=
  if minimum ≤ x.count ∧ x.count ≠ 0 then some { mean := x.sum / x.count, count := x.count } else none

/-- The history with a record appended, the oldest of nine removed (R46). -/
def appendHistory (history : List SweepRecord) (r : SweepRecord) : List SweepRecord :=
  let longer := history ++ [r]
  if Config.historyCapacity < longer.length then longer.drop 1 else longer

/-- An open sweep closes: the record is built, appended and handed on (R43 to R47). -/
def closeSweep (h : Head) (sweep : PerZone ZoneSum) (s : State) : State :=
  let p := s.sampler h
  let atEnd := decide (p.counter = Config.longMax)
  let number := if atEnd then 1 else p.counter + 1
  let r : SweepRecord :=
    { number, closed := s.base.time
      zones := PerZone.tabulate fun z => zoneMean (minimumSamples s h) (sweep.get z) }
  handClose h r (s.setSampler h { p with
    openSweep := none, counter := number, history := appendHistory (if atEnd then [] else p.history) r })

/-- A position marker acts on a head's open sweep, with the value when it was not discarded (R41 to R43). -/
def actPosition (h : Head) (position : SamplePosition) (value : Option (Zone × Nat)) (s : State) : State :=
  let p := s.sampler h
  match position, p.openSweep with
  | .first, _ => s.setSampler h { p with openSweep := some (accumulate freshSweep value) }
  | .mid, some sweep => s.setSampler h { p with openSweep := some (accumulate sweep value) }
  | .last, some sweep => closeSweep h (accumulate sweep value) s
  | .mid, none => s
  | .last, none => s

/-- A sample record is taken whole (R32, R31). -/
def takeSample (s : State) (r : SampleRecord) : State :=
  match headOfCode r.head, positionOfCode r.position with
  | some h, some position =>
    match (s.sampler h).zoneMap with
    | none => s
    | some map => actPosition h position (sampleValue s map r) s
  | _, _ => s

/-- The sample unit takes its copy of a SAMPLE frame from the sensor node (R30 to R32). -/
def takeSamples (frame : List Byte) (s : State) : State :=
  if s.fmap.sensor.map NodeChannel.node = some (frameSource frame) then
    match recordBytes 6 (framePayload frame) with
    | none => s
    | some bs => (sampleRecords bs).foldl takeSample s
  else s

end Sys2Proof.Machine
end

