-- ==== Sys2Proof/Machine/Link.lean ====
section
/-! DEFINITION. The two ports and the forwarding unit: link states, sorting, forward queues, and the choice of the next
frame on a free transmitter (chapter 7). -/

namespace Sys2Proof.Machine

/-! Link state (R122, R123). -/

/-- A good frame at a port (R122). -/
def portGood (p : PortState) : PortState :=
  match p.link with
  | .online => { p with streak := 0 }
  | .offline n => { p with streak := 0, link := if n = 0 then .offline 1 else .online }

/-- A discarded frame at a port (R122). -/
def portBad (p : PortState) : PortState :=
  match p.link with
  | .online =>
    { p with streak := p.streak + 1, link := if 4 ≤ p.streak + 1 then .offline 0 else .online }
  | .offline _ => { p with streak := min (p.streak + 1) 4, link := .offline 0 }

/-- Line loss at a port (R121, R122). -/
def portLoss (p : PortState) : PortState := { p with link := .offline 0 }

/-- A port is ONLINE. -/
def PortState.isOnline (p : PortState) : Bool := decide (p.link = .online)

/-- Port D moves, and reports the beginning or the loss of PORT_D_LOSS presence (R123). -/
def movePortD (p : PortState) (s : State) : State :=
  let t := { s with portD := p }
  if s.portD.isOnline && !p.isOnline then beginPresence .portDLoss none t
  else if !s.portD.isOnline && p.isOnline then losePresence .portDLoss t
  else t

/-! Forward queues and request queue (R125, R127, R128). -/

/-- A frame is offered to the downbound forward queue (R127, R128). -/
def offerDown (frame : List Byte) (s : State) : State :=
  if s.fwd.down.length < Config.downCapacity then { s with fwd := { s.fwd with down := s.fwd.down ++ [frame] } }
  else occurrence .forwardOverflow (.queue .downbound) s

/-- A frame is offered to the upbound forward queue (R127, R128). -/
def offerUp (frame : List Byte) (s : State) : State :=
  if s.fwd.up.length < Config.upCapacity then { s with fwd := { s.fwd with up := s.fwd.up ++ [frame] } }
  else occurrence .forwardOverflow (.queue .upbound) s

/-- A request is placed at the tail of the request queue, or dropped when the queue is full (R125). -/
def enqueueRequest (q : QueuedRequest) (s : State) : State :=
  if s.mgmt.requests.length < Config.requestCapacity then
    { s with mgmt := { s.mgmt with requests := s.mgmt.requests ++ [q] } }
  else s

/-- A good frame from Port U is sorted (R124). -/
def sortUp (frame : List Byte) (s : State) : State :=
  if frameDest frame = s.base.ownAddr then
    if frameKind frame = kindRequest then
      enqueueRequest { source := frameSource frame, payload := framePayload frame } s
    else s
  else offerDown frame s

/-- The copies that the part takes of a good frame from Port D (R126, R30, R111). -/
def copyFrame (frame : List Byte) (s : State) : State :=
  if frameKind frame = kindSample then takeSamples frame s
  else if frameKind frame = kindStatus then takeStatuses frame s
  else s

/-- A good frame from Port D is copied and offered upstream (R126). Neither waits for the other: when the offer raises
an occurrence, the order of the two is free (log 13). -/
def acceptDown (frame : List Byte) (s : State) : State :=
  if s.fwd.up.length < Config.upCapacity then offerUp frame (copyFrame frame s)
  else if pickIndex s.choice 2 = 1 then copyFrame frame (offerUp frame (s.choicesTaken 1))
  else offerUp frame (copyFrame frame (s.choicesTaken 1))

/-! Sending (R129 to R133). -/

/-- The class a free transmitter serves, if one waits (R129). -/
def chooseClass (forward own : Bool) (last : TxClass) : Option TxClass :=
  match forward, own, last with
  | true, false, _ => some .forward
  | false, true, _ => some .own
  | true, true, .own => some .forward
  | true, true, .forward => some .own
  | false, false, _ => none

/-- A frame starts on a transmitter (R129, R133). -/
def startFrame (c : TxClass) (frame : List Byte) (p : PortState) : PortState :=
  { p with tx := .busy frame, last := c }

/-- Port D's OWN class hands over its frame (R109). -/
def sendOwnD (s : State) : State :=
  match setpointFrame s with
  | none => s
  | some (frame, t) => { t with portD := startFrame .own frame t.portD }

/-- Port D's transmitter chooses; a judged frame that is not sent leaves it free, and it chooses again (R129, R130). -/
def chooseD : Nat → State → State
  | 0, s => s
  | fuel + 1, s =>
    if s.portD.tx = .free then
      match chooseClass (!s.fwd.down.isEmpty) (!(eligibleSlots s).isEmpty) s.portD.last, s.fwd.down with
      | some .own, _ => sendOwnD s
      | some .forward, frame :: rest =>
        match judgeFrame frame { s with fwd := { s.fwd with down := rest } } with
        | (some sent, t) => { t with portD := startFrame .forward sent t.portD }
        | (none, t) => chooseD fuel t
      | some .forward, [] => s
      | none, _ => s
    else s

/-- The record is that of a station reset (R179). -/
def isResetRecord (e : EventRecord) : Bool := decide (e.kind = .stationReset)

/-- The held-back response is placed in the response queue once its EVENT frame has started (R179). -/
def releaseHeldBack (sent : List EventRecord) (m : Management) : Management :=
  match m.heldBack with
  | none => m
  | some r =>
    if sent.any isResetRecord then { m with responses := m.responses ++ [r], heldBack := none } else m

/-- Port U's OWN class hands over its frame: a RESPONSE before an EVENT (R131, R132). -/
def sendOwnU (s : State) : State :=
  match s.mgmt.responses with
  | r :: rest =>
    { s with
      mgmt := { s.mgmt with responses := rest }
      portU := startFrame .own (ownFrame r.dest s.base.ownAddr kindResponse (responsePayload r)) s.portU }
  | [] =>
    let sent := s.mgmt.events.take Config.eventsPerFrame
    { s with
      mgmt := releaseHeldBack sent { s.mgmt with events := s.mgmt.events.drop Config.eventsPerFrame }
      portU := startFrame .own (ownFrame 63 s.base.ownAddr kindEvent (eventPayload sent)) s.portU }

/-- Port U's transmitter chooses (R129, R130). -/
def chooseU (s : State) : State :=
  if s.portU.tx = .free then
    match chooseClass (!s.fwd.up.isEmpty) (!s.mgmt.responses.isEmpty || !s.mgmt.events.isEmpty) s.portU.last,
        s.fwd.up with
    | some .own, _ => sendOwnU s
    | some .forward, frame :: rest =>
      { s with fwd := { s.fwd with up := rest }, portU := startFrame .forward frame s.portU }
    | some .forward, [] => s
    | none, _ => s
  else s

/-- At the end of a step each free transmitter chooses (R129). That the choice falls there is a DESIGN CHOICE
(log 10). -/
def settle (s : State) : State := chooseU (chooseD (s.fwd.down.length + 1) s)

end Sys2Proof.Machine
end

