-- ==== Sys2Proof/Machine/Requests.lean ====
section
/-! DEFINITION. The management unit's service of a request: its checks, the supervision restart, the queue of requests
that wait, and the response (R160, R161, R175, R176). -/

namespace Sys2Proof.Machine

/-- Tool and interlock origin (R161). -/
def toolOrigin : Nat := 0
def interlockOrigin : Nat := 62

/-- The request's origin may be served (R161, step 1). -/
def originServed (origin : Nat) : Bool := decide (origin = toolOrigin) || decide (origin = interlockOrigin)

/-- The supervision timer starts with its full duration (R175). -/
def startSupervision (s : State) : State :=
  { s with mgmt := { s.mgmt with supTimer := some (deadlineAfter s.base.time s.lim.supervisionTimeout) } }

/-- The supervision presence ends, and its loss is reported (R176, R171). -/
def endSupervisionLoss (s : State) : State :=
  if s.mgmt.supLoss then losePresence .supervisionLoss { s with mgmt := { s.mgmt with supLoss := false } } else s

/-- Step 2 of R161: a request of tool origin in ACTIVE mode ends the presence and restarts the timer (R175, R176). -/
def superviseRequest (origin : Nat) (s : State) : State :=
  if origin = toolOrigin ∧ s.active = true then startSupervision (endSupervisionLoss s) else s

/-- The checks of R161 around an owning rule: origin, supervision, shape, owner. -/
def serveRequest {α : Type} (shape : Walk α) (owner : Request → α → State → State × Answer) (r : Request)
    (s : State) : State × Answer :=
  if originServed r.origin then
    match wholeWalk shape r.args with
    | none => refuse (superviseRequest r.origin s) .invalid
    | some a => owner r a (superviseRequest r.origin s)
  else refuse s .origin

/-- A request is taken: no station reset has been performed since (log 26). -/
def beginRequest (s : State) : State := { s with mgmt := { s.mgmt with resetTaken := false } }

/-- The taken request is served to its end and its response placed (R160), and free transmitters choose. -/
def completeRequest (serve : Request → State → State × Answer) (r : Request) (s : State) : State :=
  let t := serve r (beginRequest s)
  settle (respond r.origin r.tag t.2 t.1)

/-- The payload a request has in the request queue (R197). -/
def requestPayload (code : Nat) (r : Request) : List Byte := BitVec.ofNat 8 code :: r.tag :: r.args

/-- The management unit can take a request as it arrives: none waits before it (R160). -/
def takesAtOnce (s : State) : Bool := canTake s && s.mgmt.requests.isEmpty

/-- A request command: taken at once when the management unit can take it and none waits, else placed in the request
queue (R125, R160, log 1). A part that does not run receives nothing (R135). -/
def request (code : Nat) (serve : Request → State → State × Answer) (r : Request) (s : State) : State :=
  if isRunning s then
    if takesAtOnce s then completeRequest serve r s
    else enqueueRequest { source := r.origin, payload := requestPayload code r } s
  else s

/-- A request of the tool origin. -/
def fromTool (r : Request) : Bool := decide (r.origin = toolOrigin)

end Sys2Proof.Machine
end

