-- ==== Sys2Proof/Machine/MgmtRequests.lean ====
section
/-! DEFINITION. The requests of the management unit: IDENTIFY, HEARTBEAT, READ_STATE, SET_MODE, WRITE_LIMITS,
READ_LIMITS, STATION_RESET and requests outside the catalogue (chapter 9). -/

namespace Sys2Proof.Machine

abbrev Result := Host.Outcome State Fault Refusal

/-! IDENTIFY (R164), HEARTBEAT (R165). -/

def ownIdentify (_ : Request) (_ : Unit) (s : State) : State × Answer :=
  (s, doneWith (u16 Config.vendorCode ++ u16 Config.familyCode ++ u16 Config.partCode ++ u16 Config.revision ++
    u8 s.base.ownAddr ++ u8 (rateCode s.base.rate) ++ word32 s.base.time))

def serveIdentify (r : Request) (s : State) : State × Answer := serveRequest noArgs ownIdentify r s

/-- IDENTIFY (R164). -/
def execIdentify (r : Request) (s : State) : Result := .next (request 1 serveIdentify r s)

def ownHeartbeat (_ : Request) (_ : Unit) (s : State) : State × Answer :=
  (s, doneWith (word32 s.base.time ++ u8 (modeCode s.mgmt.mode) ++ u8 s.cu.level ++ yes s.arb.hold ++
    u8 s.mgmt.events.length ++ yes s.mgmt.dropped))

def serveHeartbeat (r : Request) (s : State) : State × Answer := serveRequest noArgs ownHeartbeat r s

/-- HEARTBEAT (R165). -/
def execHeartbeat (r : Request) (s : State) : Result := .next (request 2 serveHeartbeat r s)

/-! READ_STATE (R166, R167). -/

/-- Link state, error streak and recovery count, sent as 0 for a port that is ONLINE (log 15). -/
def portBytes (p : PortState) : List Byte :=
  u8 (linkCode p.link) ++ u8 p.streak ++
    u8 (match p.link with
      | .online => 0
      | .offline n => n)

/-- The STATION section of READ_STATE (R166). R166 names each port and each forward queue without an order; Port U before
Port D, and the downbound queue before the upbound one, is the model's DESIGN CHOICE (log 15). -/
def stationSection (s : State) : List Byte :=
  u8 (modeCode s.mgmt.mode) ++ yes s.mgmt.limits.isSome ++
    opt (fun d => u16 (remainingTime s.base.time d)) s.mgmt.supTimer ++ yes s.mgmt.supLoss ++
    u8 (headStateCode s.seqs.a.state) ++ u8 (headStateCode s.seqs.b.state) ++
    portBytes s.portU ++ portBytes s.portD ++ u8 s.fwd.down.length ++ u8 s.fwd.up.length ++
    u8 s.mgmt.events.length ++ yes s.mgmt.dropped ++ u8 (engineCode s.store.engine) ++ word32 s.base.time

/-- The deadlines of the arrival timer and of the dwell timer, each where one runs (log 15). -/
def condTimerBytes : CondPhase → List Byte
  | .travel d => opt word32 d ++ opt word32 none
  | .dwell d => opt word32 none ++ opt word32 (some d)

def condRunBytes (r : CondRun) : List Byte :=
  u8 r.program ++ u16 r.force ++ u8 r.speed ++ u8 r.segment ++ u8 (condPhaseCode r.phase) ++ u16 r.target ++
    condTimerBytes r.phase ++ u16 r.passes

def wearBytes (w : Wear) : List Byte :=
  u32 w.pad ++ u32 w.disk ++ u16 w.padCount ++ u16 w.diskCount ++ u32 w.wafers

/-- The four current dosing setpoints, each a flow or absent (R82). -/
def doseBytes (d : Option Dose) : List Byte :=
  opt u16 (d.map Dose.dose1) ++ opt u16 (d.map Dose.dose2) ++ opt u16 (d.map Dose.dose3) ++
    opt u16 (d.map Dose.rinse)

/-- The PAD section of READ_STATE (R166). R195 has no codes for the service state FREE or GRANTED and for the
conditioner's run state IDLE or RUNNING; that each is sent as a presence byte, 0 for FREE and for IDLE, with its further
fields behind a 1, is the model's DESIGN CHOICE (log 15). -/
def padSection (s : State) : List Byte :=
  opt (fun g : Grant => u8 g.entry ++ headSet g.holders ++ word32 g.time) s.arb.service ++
    counted (fun w : Head × Nat => u8 (headCode w.1) ++ u8 w.2) s.arb.waiting ++ yes s.arb.hold ++
    doseBytes s.dose.current ++ opt condRunBytes s.cdr.run ++ wearBytes s.store.live ++
    u16 s.cdr.padRem ++ u16 s.cdr.diskRem ++ yes s.cdr.padWorn ++ yes s.cdr.diskWorn

def channelBytes (c : NodeChannel) : List Byte := u8 c.node ++ u8 c.channel

/-- Deviation state and whether the dwell timer runs, for pressure and flow functions (R166). -/
def deviationBytes (f : Fn) (d : DevState) : List Byte :=
  if f.monitored then
    u8 (devCode d) ++ yes (match d with
      | .dwell _ => true
      | .inBand | .deviated => false)
  else []

/-- The FUNCTION section of READ_STATE for a function (R166). R195 has no codes for a slot that is empty or pending; that
the slot is sent as a presence byte, 0 for empty, with value and write time behind a 1, is the model's DESIGN CHOICE (log
15). R108 and R166 give a pending slot's value no range, so R197 gives it no width; that it is sent in 2 bytes for every
function, also for DISK, is the model's DESIGN CHOICE too (log 15). -/
def functionSection (s : State) (f : Fn) : List Byte :=
  let x := s.fn f
  opt channelBytes x.assign ++ u8 (authorityCode (partAuthority s f)) ++
    opt (fun v : Slot => u16 v.value ++ word32 v.written) (s.slots.get f) ++
    opt (fun n : NodeStatus => yes n.ready ++ u16 n.applied ++ u16 n.measured) x.status ++ yes x.ready ++
    opt (fun t : LastTx => u16 t.node ++ i32 t.value) x.lastTx ++ u8 x.echo ++ deviationBytes f x.dev ++
    yes x.clamped

def keySection (s : State) : MapKey → List Byte
  | .sensor => opt channelBytes s.fmap.sensor
  | .fn f => functionSection s f

/-- The clamped flag reported is cleared (R167). -/
def clearClamped (f : Fn) (s : State) : State := s.setFn f { s.fn f with clamped := false }

def clearKeyClamped (key : MapKey) (s : State) : State :=
  match key with
  | .sensor => s
  | .fn f => clearClamped f s

/-- The set of functions whose clamped flag is set (R166). -/
def clampedSet (s : State) : PerFn Bool := PerFn.tabulate fun f => (s.fn f).clamped

/-- Every clamped flag is clear (R167). -/
def clearAllClamped (s : State) : State :=
  { s with fmap := { s.fmap with fns := PerFn.tabulate fun f => { s.fmap.fns.get f with clamped := false } } }

def ownReadState (_ : Request) (a : ReadStateArgs) (s : State) : State × Answer :=
  match sectionOfCode a.section_ with
  | none => refuse s .invalid
  | some .station => (s, doneWith (stationSection s))
  | some .pad => (s, doneWith (padSection s))
  | some .clamped => (clearAllClamped s, doneWith (fnSet (clampedSet s)))
  | some .function =>
    match a.key.bind keyOfCode with
    | none => refuse s .invalid
    | some key => (clearKeyClamped key s, doneWith (keySection s key))

def serveReadState (r : Request) (s : State) : State × Answer := serveRequest readStateArgs ownReadState r s

/-- READ_STATE (R166, R167). -/
def execReadState (r : Request) (s : State) : Result := .next (request 3 serveReadState r s)

/-! SET_MODE (R169 to R171). -/

/-- Entry to ACTIVE mode (R170, R80). -/
def enterActive (s : State) : State :=
  let s := startSupervision { s with mgmt := { s.mgmt with mode := .active } }
  if s.arb.hold then writeHoldValues s else s

/-- Entry to TRANSPARENT mode (R171, R116). -/
def enterTransparent (s : State) : State :=
  let s := clearMonitors { s with mgmt := { s.mgmt with mode := .transparent } }
  endSupervisionLoss { s with mgmt := { s.mgmt with supTimer := none } }

/-- MODE_CHANGED with the new mode and the origin of the request (R169). -/
def modeChanged (m : Mode) (origin : Nat) (s : State) : State :=
  queueEvent .modeChanged none [dv (modeCode m), dv origin] s

def ownSetMode (r : Request) (a : Nat) (s : State) : State × Answer :=
  match modeOfCode a with
  | none => refuse s .invalid
  | some m =>
    if s.mgmt.mode = m then (s, doneAnswer)
    else
      match m with
      | .active =>
        if s.mgmt.limits.isNone then refuse s .notReady
        else (modeChanged .active r.origin (enterActive s), doneAnswer)
      | .transparent =>
        if anyHeadWorking s || s.arb.hold then refuse s .state
        else (modeChanged .transparent r.origin (enterTransparent s), doneAnswer)

def serveSetMode (r : Request) (s : State) : State × Answer := serveRequest byte ownSetMode r s

/-- SET_MODE (R169). -/
def execSetMode (r : Request) (s : State) : Result := .next (request 4 serveSetMode r s)

/-! WRITE_LIMITS (R172, R173), READ_LIMITS (R174). -/

/-- A field lies in a range. -/
def within (lo hi x : Nat) : Bool := decide (lo ≤ x) && decide (x ≤ hi)

/-- Min, hold and max of a zone or the ring (R172). -/
def areaLimitOk (a : AreaLimit) : Bool :=
  within 0 1000 a.min && within 0 1000 a.max && within 0 1000 a.hold && decide (a.min ≤ a.hold) &&
    decide (a.hold ≤ a.max)

/-- The ranges and relations of R172 (R173, check 3). -/
def limitsOk (l : LimitBlock) : Bool :=
  l.areas.toList.all areaLimitOk &&
  within 1 200 l.pressureBand && within 10 10000 l.pressureDwell &&
  within 0 2000 l.dose1Max && within 0 2000 l.dose2Max && within 0 2000 l.dose3Max &&
  within 0 2000 l.totalMax && within 0 2000 l.rinseMax && within 0 l.rinseMax l.holdRinse &&
  within 1 500 l.flowBand && within 100 30000 l.flowDwell &&
  within 0 500 l.forceMax && within 0 150 l.diskMax &&
  within 0 4000 l.armMin && within 0 4000 l.armMax && within 0 4000 l.park &&
  decide (l.armMin ≤ l.park) && decide (l.park ≤ l.armMax) &&
  within 1 100 l.armTolerance && within 100 20000 l.arrivalTimeout &&
  within 100 10000 l.supervisionTimeout && within 500 60000 l.sampleGapTimeout &&
  within 1 4000000000 l.padLife && within 1 4000000000 l.diskLife

def ownWriteLimits (r : Request) (l : LimitBlock) (s : State) : State × Answer :=
  if fromTool r then refuse s .origin
  else if s.mgmt.limits.isSome then refuse s .sequence
  else if limitsOk l then (evaluateWear { s with mgmt := { s.mgmt with limits := some l } }, doneAnswer)
  else refuse s .invalid

def serveWriteLimits (r : Request) (s : State) : State × Answer := serveRequest limitsArgs ownWriteLimits r s

/-- WRITE_LIMITS (R173). -/
def execWriteLimits (r : Request) (s : State) : Result := .next (request 5 serveWriteLimits r s)

def areaLimitBytes (a : AreaLimit) : List Byte := u16 a.min ++ u16 a.max ++ u16 a.hold

/-- The fields of R172 in its order, as WRITE_LIMITS carries them. -/
def limitBytes (l : LimitBlock) : List Byte :=
  l.areas.toList.flatMap areaLimitBytes ++
  u8 l.pressureBand ++ u16 l.pressureDwell ++
  u16 l.dose1Max ++ u16 l.dose2Max ++ u16 l.dose3Max ++ u16 l.totalMax ++ u16 l.rinseMax ++ u16 l.holdRinse ++
  u16 l.flowBand ++ u16 l.flowDwell ++ u16 l.forceMax ++ u8 l.diskMax ++
  u16 l.armMin ++ u16 l.armMax ++ u16 l.park ++ u8 l.armTolerance ++ u16 l.arrivalTimeout ++
  u16 l.supervisionTimeout ++ u16 l.sampleGapTimeout ++ u32 l.padLife ++ u32 l.diskLife

/-- The owning rule of READ_LIMITS (R174). That the mark of an unwritten block is a presence byte, 0 for unwritten, with the
block behind a 1, is the model's DESIGN CHOICE (log 15). -/
def ownReadLimits (_ : Request) (_ : Unit) (s : State) : State × Answer :=
  (s, doneWith (opt limitBytes s.mgmt.limits))

def serveReadLimits (r : Request) (s : State) : State × Answer := serveRequest noArgs ownReadLimits r s

/-- READ_LIMITS (R174). -/
def execReadLimits (r : Request) (s : State) : Result := .next (request 6 serveReadLimits r s)

/-! STATION_RESET (R179). -/

def ownStationReset (r : Request) (_ : Unit) (s : State) : State × Answer :=
  if fromTool r && decide (Config.toolLevel < s.cu.level) then refuse s .origin
  else (stationReset (requestCause r.origin) s, doneAnswer)

def serveStationReset (r : Request) (s : State) : State × Answer := serveRequest noArgs ownStationReset r s

/-- STATION_RESET (R179). -/
def execStationReset (r : Request) (s : State) : Result := .next (request 34 serveStationReset r s)

/-! Requests outside the catalogue (R161, R163, R197). -/

/-- A payload of fewer than 2 bytes: no code check is made (R197). -/
def serveShort (r : Request) (s : State) : State × Answer :=
  if originServed r.origin then refuse (superviseRequest r.origin s) .invalid else refuse s .origin

/-- A code outside 1 to 34 (R161, step 3). -/
def serveUnknown (r : Request) (s : State) : State × Answer :=
  if originServed r.origin then refuse (superviseRequest r.origin s) .unknown else refuse s .origin

/-- The request that a payload spells: tag 0 for fewer than 2 bytes (R197). -/
def payloadRequest (origin : Nat) : List Byte → Request
  | _ :: tag :: args => { origin, tag, args }
  | _ => { origin, tag := 0, args := [] }

/-- How a payload that names no request is served (R161, R197). -/
def serveNameless (payload : List Byte) : Request → State → State × Answer :=
  if payload.length < 2 then serveShort else serveUnknown

/-- UNKNOWN_REQUEST (R161, R163, R197). -/
def execUnknownRequest (origin : Nat) (payload : List Byte) (s : State) : Result :=
  .next
    (if isRunning s then
      if takesAtOnce s then completeRequest (serveNameless payload) (payloadRequest origin payload) s
      else enqueueRequest { source := origin, payload } s
    else s)

end Sys2Proof.Machine
end

