-- ==== Sys2Proof/Machine/TableRequests.lean ====
section
/-! DEFINITION. The requests that load the tables: MAP_FUNCTION, LOAD_ZONE_MAP, LOAD_STEP, LOAD_BLEND, LOAD_CONDITIONING,
LOAD_PAD_SERVICE and LOAD_PROGRAM (R101, R38, R3, R81, R87, R71, R6). -/

namespace Sys2Proof.Machine

/-! MAP_FUNCTION (R101, R102). -/

/-- Node address and channel number are in range, and the node is not the part itself (R101, check 1). -/
def channelOk (s : State) (ch : NodeChannel) : Bool :=
  within 1 61 ch.node && within 0 7 ch.channel && decide (ch.node ≠ s.base.ownAddr)

/-- What a key holds (R100). -/
def keyAssignment (s : State) : MapKey → Option NodeChannel
  | .sensor => s.fmap.sensor
  | .fn f => (s.fn f).assign

/-- Check 2 of R101: a function under part authority. -/
def keyUnderPart (s : State) : MapKey → Bool
  | .sensor => false
  | .fn f => partAuthority s f

/-- The new assignment of a key (R101, R102). -/
def remapKey (key : MapKey) (ch : Option NodeChannel) (s : State) : State :=
  match key with
  | .sensor => remapSensor ch s
  | .fn f => remapFn f ch s

def ownMapFunction (_ : Request) (a : MapArgs) (s : State) : State × Answer :=
  match keyOfCode a.key with
  | none => refuse s .invalid
  | some key =>
    if !(a.channel.all (channelOk s)) then refuse s .invalid
    else if keyUnderPart s key then refuse s .state
    else if a.channel.any (channelHeldByOther s key) then refuse s .invalid
    else if keyAssignment s key = a.channel then (s, doneAnswer)
    else (remapKey key a.channel s, doneAnswer)

def serveMapFunction (r : Request) (s : State) : State × Answer := serveRequest mapArgs ownMapFunction r s

/-- MAP_FUNCTION (R101). -/
def execMapFunction (r : Request) (s : State) : Result := .next (request 7 serveMapFunction r s)

/-! LOAD_ZONE_MAP (R37 to R39). -/

/-- Zone numbers never fall, from the zone number `least` on (R37). -/
def zonesRise (least : Nat) : List (Option Zone) → Bool
  | [] => true
  | none :: rest => zonesRise least rest
  | some z :: rest => decide (least ≤ zoneCode z) && zonesRise (zoneCode z) rest

/-- A zone map is well-formed (R37). -/
def zoneMapOk (m : List (Option Zone)) : Bool := m.any Option.isSome && zonesRise 0 m

def ownLoadZoneMap (_ : Request) (a : ZoneMapArgs) (s : State) : State × Answer :=
  match headOfCode a.head, a.entries.mapM mapEntryOfCode with
  | some h, some m =>
    if headWorking s h then refuse s .state
    else if zoneMapOk m then
      (clearSweeps h (s.setSampler h { s.sampler h with zoneMap := some m }), doneAnswer)
    else refuse s .invalid
  | _, _ => refuse s .invalid

def serveLoadZoneMap (r : Request) (s : State) : State × Answer := serveRequest zoneMapArgs ownLoadZoneMap r s

/-- LOAD_ZONE_MAP (R38). -/
def execLoadZoneMap (r : Request) (s : State) : Result := .next (request 8 serveLoadZoneMap r s)

/-! LOAD_STEP (R3 to R5). -/

def controlOk (c : ControlSection) : Bool :=
  within 0 256 c.gain && within 1 100 c.maxStep && within 1 10000 c.minRate && within 2 8 c.depth

/-- Target and cleared pressure; a cleared pressure needs a target (R4). -/
def zoneTargetOk (t : ZoneTarget) : Bool :=
  t.target.all (within 0 200000) && t.cleared.all (within 0 1000) && (t.target.isSome || t.cleared.isNone)

def endpointOk (e : EndpointSection) : Bool :=
  e.zones.toList.all zoneTargetOk && within 0 5000 e.margin && within 1 8 e.confirm

/-- An endpoint section with at least one target is there (R4). -/
def hasTarget (e : Option EndpointSection) : Bool := e.any fun x => x.zones.toList.any fun t => t.target.isSome

/-- The field checks of R4. -/
def stepFieldsOk (a : StepArgs) (m : EndMode) : Bool :=
  within 1000 1800000 a.limit && a.base.toList.all (within 0 1000) &&
  a.bounds.all (fun b => b.toList.all fun x => within 0 1000 x.lo && within 0 1000 x.hi) &&
  a.minSamples.all (within 1 64) && a.control.all controlOk && a.endpoint.all endpointOk &&
  (decide (m = .time) || hasTarget a.endpoint) && (a.control.isNone || hasTarget a.endpoint) &&
  a.pad.all (within 0 7)

/-- Effective bounds of a step (R5). -/
def effectiveBounds (l : LimitBlock) : Option (PerArea Bounds) → PerArea Bounds
  | none => PerArea.tabulate fun x => { lo := (l.areas.get x).min, hi := (l.areas.get x).max }
  | some b =>
    PerArea.tabulate fun x =>
      { lo := max (b.get x).lo (l.areas.get x).min, hi := min (b.get x).hi (l.areas.get x).max }

/-- The bound check of R5, made when the request gives step bounds. -/
def boundsOk (given : Bool) (b : PerArea Bounds) : Bool := !given || b.toList.all fun x => decide (x.lo ≤ x.hi)

/-- The record a LOAD_STEP stores (R3). -/
def stepRecord (a : StepArgs) (m : EndMode) (bounds : PerArea Bounds) : StepRecord :=
  { endMode := m, limit := a.limit, base := a.base, bounds, minSamples := a.minSamples.getD 3
    control := a.control, endpoint := a.endpoint, pad := a.pad }

/-- The effective bounds as the response carries them (R3). -/
def boundsBytes (b : PerArea Bounds) : List Byte := b.toList.flatMap fun x => u16 x.lo ++ u16 x.hi

def ownLoadStep (_ : Request) (a : StepArgs) (s : State) : State × Answer :=
  if 31 < a.index then refuse s .invalid
  else
    match s.mgmt.limits with
    | none => refuse s .notReady
    | some l =>
      if stepInUse s a.index then refuse s .state
      else
        match endModeOfCode a.endMode with
        | none => refuse s .invalid
        | some m =>
          let bounds := effectiveBounds l a.bounds
          if stepFieldsOk a m && boundsOk a.bounds.isSome bounds then
            ({ s with steps := tablePut s.steps a.index (stepRecord a m bounds) }, doneWith (boundsBytes bounds))
          else refuse s .invalid

def serveLoadStep (r : Request) (s : State) : State × Answer := serveRequest stepArgs ownLoadStep r s

/-- LOAD_STEP (R3). -/
def execLoadStep (r : Request) (s : State) : Result := .next (request 9 serveLoadStep r s)

/-! LOAD_BLEND (R81). -/

def blendOk (b : Blend) : Bool :=
  within 0 1000 b.flow && within 0 1000 b.ratio1 && within 0 1000 b.ratio2 && within 0 1000 b.ratio3 &&
    within 0 2000 b.rinse && decide (b.ratio1 + b.ratio2 + b.ratio3 = 1000)

def ownLoadBlend (_ : Request) (a : BlendArgs) (s : State) : State × Answer :=
  if !(within 0 7 a.index && blendOk a.blend) then refuse s .invalid
  else if blendInUse s a.index then refuse s .state
  else ({ s with dose := { s.dose with blends := tablePut s.dose.blends a.index a.blend } }, doneAnswer)

def serveLoadBlend (r : Request) (s : State) : State × Answer := serveRequest blendArgs ownLoadBlend r s

/-- LOAD_BLEND (R81). -/
def execLoadBlend (r : Request) (s : State) : Result := .next (request 10 serveLoadBlend r s)

/-! LOAD_CONDITIONING (R87). -/

def segmentOk (x : Segment) : Bool := within 0 4000 x.position && within 10 60000 x.dwell

def condProgramOk (p : CondProgram) : Bool :=
  within 0 500 p.force && within 0 150 p.speed && within 1 16 p.segments.length && p.segments.all segmentOk

def ownLoadConditioning (_ : Request) (a : ConditioningArgs) (s : State) : State × Answer :=
  if !(within 0 3 a.index && condProgramOk a.program) then refuse s .invalid
  else if conditioningInUse s a.index then refuse s .state
  else ({ s with cdr := { s.cdr with programs := tablePut s.cdr.programs a.index a.program } }, doneAnswer)

def serveLoadConditioning (r : Request) (s : State) : State × Answer :=
  serveRequest conditioningArgs ownLoadConditioning r s

/-- LOAD_CONDITIONING (R87). -/
def execLoadConditioning (r : Request) (s : State) : Result := .next (request 11 serveLoadConditioning r s)

/-! LOAD_PAD_SERVICE (R71). -/

/-- Every blend and program a pad service names is loaded (R71, check 3). -/
def namesLoaded (s : State) (p : PadService) : Bool :=
  p.blend.all (fun b => (tableGet s.dose.blends b).isSome) &&
    p.program.all fun k => (tableGet s.cdr.programs k).isSome

def ownLoadPadService (_ : Request) (a : PadServiceArgs) (s : State) : State × Answer :=
  if !(within 0 7 a.entry && a.service.blend.all (within 0 7) && a.service.program.all (within 0 3)) then
    refuse s .invalid
  else if entryInUse s a.entry then refuse s .state
  else if namesLoaded s a.service then
    (s.setArb { s.arb with table := tablePut s.arb.table a.entry a.service }, doneAnswer)
  else refuse s .notReady

def serveLoadPadService (r : Request) (s : State) : State × Answer :=
  serveRequest padServiceArgs ownLoadPadService r s

/-- LOAD_PAD_SERVICE (R71). -/
def execLoadPadService (r : Request) (s : State) : Result := .next (request 12 serveLoadPadService r s)

/-! LOAD_PROGRAM (R6). -/

def ownLoadProgram (_ : Request) (a : ProgramArgs) (s : State) : State × Answer :=
  match headOfCode a.head with
  | none => refuse s .invalid
  | some h =>
    if !(within 1 12 a.steps.length && a.steps.all (within 0 31)) then refuse s .invalid
    else if headWorking s h then refuse s .state
    else if a.steps.all fun i => (tableGet s.steps i).isSome then
      (s.setSeq h { s.seq h with state := .ready, program := some a.steps, position := none }, doneAnswer)
    else refuse s .notReady

def serveLoadProgram (r : Request) (s : State) : State × Answer := serveRequest programArgs ownLoadProgram r s

/-- LOAD_PROGRAM (R6). -/
def execLoadProgram (r : Request) (s : State) : Result := .next (request 13 serveLoadProgram r s)

end Sys2Proof.Machine
end

