-- ==== Sys2Proof/Machine/HeadRequests.lean ====
section
/-! DEFINITION. The requests that run and read a head: START_HEAD, PAUSE_HEAD, RESUME_HEAD, SKIP_STEP, ABORT_HEAD,
READ_RESULT and READ_PROFILE (R8, R16 to R18, R21, R27, R67). -/

namespace Sys2Proof.Machine

/-! START_HEAD (R8). -/

/-- The step records a program names. -/
def programSteps (s : State) (p : List Nat) : List StepRecord := p.filterMap (tableGet s.steps)

/-- Thickness is needed and can be had, or is not needed (R8, check 4). -/
def thicknessReady (s : State) (h : Head) (steps : List StepRecord) : Bool :=
  !steps.any StepRecord.watched || (s.store.cal.isSome && (s.sampler h).zoneMap.isSome)

/-- Every pad service entry named is loaded (R8, check 5). -/
def entriesLoaded (s : State) (steps : List StepRecord) : Bool :=
  steps.all fun st => st.pad.all fun e => (tableGet s.arb.table e).isSome

/-- The result record is cleared, the step position becomes 1 and step entry follows (R8). -/
def startHead (h : Head) (s : State) : State :=
  stepEntry h (s.setSeq h { s.seq h with position := some 1, results := [], current := none })

/-- The states that accept START_HEAD (R8, check 3). -/
def HeadState.startable : HeadState → Bool
  | .ready | .done | .aborted => true
  | .empty | .waitPad | .polishing | .paused | .hold => false

def ownStartHead (_ : Request) (a : Nat) (s : State) : State × Answer :=
  match headOfCode a with
  | none => refuse s .invalid
  | some h =>
    if !s.active then refuse s .mode
    else if !(s.seq h).state.startable then refuse s .state
    else
      let steps := programSteps s ((s.seq h).program.getD [])
      if thicknessReady s h steps && entriesLoaded s steps then (startHead h s, doneAnswer)
      else refuse s .notReady

def serveStartHead (r : Request) (s : State) : State × Answer := serveRequest byte ownStartHead r s

/-- START_HEAD (R8). -/
def execStartHead (r : Request) (s : State) : Result := .next (request 14 serveStartHead r s)

/-! PAUSE_HEAD (R16), RESUME_HEAD (R17), SKIP_STEP (R18), ABORT_HEAD (R21). -/

/-- A request whose argument is a head and that some head states accept: another head is INVALID, another state STATE. -/
def headRequest (accepts : HeadState → Bool) (effect : Head → State → State) (a : Nat) (s : State) :
    State × Answer :=
  match headOfCode a with
  | none => refuse s .invalid
  | some h => if accepts (s.seq h).state then (effect h s, doneAnswer) else refuse s .state

def HeadState.isPolishing (x : HeadState) : Bool := decide (x = .polishing)
def HeadState.isPaused (x : HeadState) : Bool := decide (x = .paused)

/-- WAIT_PAD, POLISHING and PAUSED (R18, R23). -/
def HeadState.inStep : HeadState → Bool
  | .waitPad | .polishing | .paused => true
  | .empty | .ready | .hold | .done | .aborted => false

def ownPauseHead (_ : Request) (a : Nat) (s : State) : State × Answer :=
  headRequest HeadState.isPolishing pauseHead a s

def servePauseHead (r : Request) (s : State) : State × Answer := serveRequest byte ownPauseHead r s

/-- PAUSE_HEAD (R16). -/
def execPauseHead (r : Request) (s : State) : Result := .next (request 15 servePauseHead r s)

def ownResumeHead (_ : Request) (a : Nat) (s : State) : State × Answer :=
  headRequest HeadState.isPaused resumeHead a s

def serveResumeHead (r : Request) (s : State) : State × Answer := serveRequest byte ownResumeHead r s

/-- RESUME_HEAD (R17). -/
def execResumeHead (r : Request) (s : State) : Result := .next (request 16 serveResumeHead r s)

def ownSkipStep (_ : Request) (a : Nat) (s : State) : State × Answer := headRequest HeadState.inStep skipStep a s

def serveSkipStep (r : Request) (s : State) : State × Answer := serveRequest byte ownSkipStep r s

/-- SKIP_STEP (R18). -/
def execSkipStep (r : Request) (s : State) : Result := .next (request 17 serveSkipStep r s)

def ownAbortHead (_ : Request) (a : Nat) (s : State) : State × Answer := headRequest HeadState.working abortHead a s

def serveAbortHead (r : Request) (s : State) : State × Answer := serveRequest byte ownAbortHead r s

/-- ABORT_HEAD (R21). -/
def execAbortHead (r : Request) (s : State) : Result := .next (request 18 serveAbortHead r s)

/-! READ_RESULT (R27). -/

/-- The remaining time of a step timer that runs or is frozen (R27). -/
def timerRemaining (now : Time) : StepTimer → Option Nat
  | .running d => some (remainingTime now d)
  | .frozen n => some n
  | .stopped | .expired => none

def resultBytes (r : StepResult) : List Byte :=
  u8 r.step ++ u8 (causeCode r.cause) ++ word32 (durationWord r.duration) ++ u32 r.sweeps ++ zoneSet r.cleared ++
    r.means.toList.flatMap (opt u32)

/-- The in-progress part: the open interval counts at the moment of the read (R27). -/
def progressBytes (now : Time) (c : InProgress) : List Byte :=
  u8 c.step ++ word32 (durationWord (polishingTime now c)) ++ u32 c.sweeps

def summaryBytes (s : State) (h : Head) : List Byte :=
  let q := s.seq h
  u8 (headStateCode q.state) ++ opt (counted u8) q.program ++ opt u8 q.position ++
    q.commanded.toList.flatMap (opt u16) ++ u8 (stepTimerCode q.timer) ++
    opt u32 (timerRemaining s.base.time q.timer) ++ q.confirm.toList.flatMap u8 ++ zoneSet q.cleared ++
    u8 q.results.length ++ opt (progressBytes s.base.time) q.current

def ownReadResult (_ : Request) (a : ReadResultArgs) (s : State) : State × Answer :=
  match headOfCode a.head with
  | none => refuse s .invalid
  | some h =>
    if a.item = itemSummary then (s, doneWith (summaryBytes s h))
    else if a.item = itemStep ∧ 1 ≤ a.number ∧ a.number ≤ 12 then
      (s, doneWith (opt resultBytes ((s.seq h).results[a.number - 1]?)))
    else refuse s .invalid

def serveReadResult (r : Request) (s : State) : State × Answer := serveRequest readResultArgs ownReadResult r s

/-- READ_RESULT (R27). -/
def execReadResult (r : Request) (s : State) : Result := .next (request 19 serveReadResult r s)

/-! READ_PROFILE (R67). -/

/-- What every READ_PROFILE response carries (R67). -/
def profileHeader (s : State) (h : Head) : List Byte :=
  let p := s.sampler h
  u8 (headStateCode (s.seq h).state) ++ yes p.zoneMap.isSome ++ u32 p.counter ++ u8 p.history.length ++
    yes p.openSweep.isSome

/-- A zone entry of a computation (R66, R67). R66 gives the ideal no range; that it is sent in 4 bytes is the model's
DESIGN CHOICE (log 15). -/
def zoneEntryBytes (x : ZoneEntry) : List Byte :=
  u8 (zoneStatusCode x.status) ++ opt u32 x.oNumber ++ opt i32 x.rate ++ opt u32 x.remaining ++ opt u32 x.finish ++
    u16 x.before ++ opt u32 x.ideal ++ opt u16 x.after ++ opt yes x.stepLimited ++ opt yes x.boundClamped

def computationBytes (z : Zone) (c : Computation) : List Byte :=
  u32 c.number ++ word32 c.closed ++ u8 c.window ++ u8 (controlOutcomeCode c.outcome) ++ opt u32 c.reference ++
    zoneEntryBytes (c.zones.get z)

def sweepBytes (r : SweepRecord) : List Byte :=
  u32 r.number ++ word32 r.closed ++ r.zones.toList.flatMap (opt fun m => u32 m.mean ++ u16 m.count)

def ownReadProfile (_ : Request) (a : ReadProfileArgs) (s : State) : State × Answer :=
  match headOfCode a.head with
  | none => refuse s .invalid
  | some h =>
    if a.item = itemComputation then
      match zoneOfCode a.which with
      | none => refuse s .invalid
      | some z => (s, doneWith (profileHeader s h ++ opt (computationBytes z) (s.comp h)))
    else if a.item = itemHistory ∧ 1 ≤ a.which ∧ a.which ≤ 8 then
      (s, doneWith (profileHeader s h ++ opt sweepBytes ((s.sampler h).history.reverse[a.which - 1]?)))
    else refuse s .invalid

def serveReadProfile (r : Request) (s : State) : State × Answer := serveRequest readProfileArgs ownReadProfile r s

/-- READ_PROFILE (R67). -/
def execReadProfile (r : Request) (s : State) : Result := .next (request 20 serveReadProfile r s)

end Sys2Proof.Machine
end

