-- ==== Sys2Proof/Machine/ConditionRequests.lean ====
section
/-! DEFINITION. The requests of the condition unit (R150 to R157). -/

namespace Sys2Proof.Machine

/-! SET_SOURCE (R150). -/

/-- The settings as SET_SOURCE answers them, in its argument order (R150). -/
def settingBytes (x : Source) : List Byte := yes x.enabled ++ u8 x.severity ++ u8 (actionCode x.action)

/-- The settings become these, and the taking run follows (R150, R143). -/
def applySettings (k : SourceId) (enabled : Bool) (severity : Nat) (action : Action) (s : State) : State × Answer :=
  let x := { s.source k with enabled, severity, action }
  (takingRun (s.setSource k x), doneWith (settingBytes x))

/-- Checks 3 and 4 of R150, for sources 1 and 2. -/
def setSpecial (r : Request) (k : SourceId) (enabled : Bool) (action : Nat) (s : State) : State × Answer :=
  match actionOfCode action with
  | some .hold | some .reset =>
    if fromTool r && !enabled then refuse s .origin
    else applySettings k enabled (s.source k).severity (if action = actionCode .hold then .hold else .reset) s
  | some .note | some .pause | none => refuse s .invalid

/-- Check 2 of R150, for sources 3 to 16. -/
def setOrdinary (k : SourceId) (enabled : Bool) (severity action : Nat) (s : State) : State × Answer :=
  if within 1 15 severity then
    match actionOfCode action with
    | some .note => applySettings k enabled severity .note s
    | some .pause => applySettings k enabled severity .pause s
    | some .hold => applySettings k enabled severity .hold s
    | some .reset | none => refuse s .invalid
  else refuse s .invalid

def ownSetSource (r : Request) (a : SetSourceArgs) (s : State) : State × Answer :=
  match sourceOfNumber a.source, yesOfCode a.enable with
  | some k, some enabled =>
    if isSpecial k then setSpecial r k enabled a.action s else setOrdinary k enabled a.severity a.action s
  | _, _ => refuse s .invalid

def serveSetSource (r : Request) (s : State) : State × Answer := serveRequest setSourceArgs ownSetSource r s

/-- SET_SOURCE (R150). -/
def execSetSource (r : Request) (s : State) : Result := .next (request 21 serveSetSource r s)

/-! CLEAR_SOURCE (R151). -/

/-- The effect of CLEAR_SOURCE on a source (R151, R140, R141). -/
def clearSource (k : SourceId) (s : State) : State :=
  if isLevel k then (if (s.source k).sim then endSimulation k s else s)
  else s.setSource k { s.source k with state := .idle, data := none }

def ownClearSource (_ : Request) (a : Nat) (s : State) : State × Answer :=
  match sourceOfNumber a with
  | none => refuse s .invalid
  | some k => (clearSource k s, doneAnswer)

def serveClearSource (r : Request) (s : State) : State × Answer := serveRequest byte ownClearSource r s

/-- CLEAR_SOURCE (R151). -/
def execClearSource (r : Request) (s : State) : Result := .next (request 22 serveClearSource r s)

/-! SIMULATE_SOURCE (R152). -/

/-- A source is raised as if its condition had arisen (R152). -/
def simulateSource (k : SourceId) (h : Option Head) (v : Nat) (s : State) : State :=
  if isLevel k then beginSimulationWith takingRun k v s else occurrence k (.simulated h v) s

def ownSimulateSource (r : Request) (a : SimulateArgs) (s : State) : State × Answer :=
  if fromTool r then refuse s .origin
  else
    match sourceOfNumber a.source with
    | none => refuse s .invalid
    | some .limitReached =>
      match headOfCode a.head with
      | none => refuse s .invalid
      | some h => (simulateSource .limitReached (some h) a.value s, doneAnswer)
    | some k => (simulateSource k none a.value s, doneAnswer)

def serveSimulateSource (r : Request) (s : State) : State × Answer :=
  serveRequest simulateArgs ownSimulateSource r s

/-- SIMULATE_SOURCE (R152). -/
def execSimulateSource (r : Request) (s : State) : Result := .next (request 23 serveSimulateSource r s)

/-! READ_CONDITIONS (R153). -/

def conditionSummary (s : State) : List Byte := u8 s.cu.level ++ counted u8 s.cu.stack ++ yes s.arb.hold

/-- Source data in READ_CONDITIONS (R197). -/
def sourceDataBytes (d : Option SourceData) : List Byte :=
  opt (fun x => word32 (dataWords (some x)).1 ++ word32 (dataWords (some x)).2 ++ yes (isSimulated (some x))) d

def sourceBytes (k : SourceId) (x : Source) : List Byte :=
  u8 (sourceStateCode x.state) ++ settingBytes x ++ sourceDataBytes x.data ++
    if isLevel k then yes x.real ++ yes x.sim else []

def ownReadConditions (_ : Request) (a : ReadConditionsArgs) (s : State) : State × Answer :=
  if a.part = partSummary then (s, doneWith (conditionSummary s))
  else if a.part = partSource then
    match sourceOfNumber a.source with
    | none => refuse s .invalid
    | some k => (s, doneWith (sourceBytes k (s.source k)))
  else refuse s .invalid

def serveReadConditions (r : Request) (s : State) : State × Answer :=
  serveRequest readConditionsArgs ownReadConditions r s

/-- READ_CONDITIONS (R153). -/
def execReadConditions (r : Request) (s : State) : Result := .next (request 24 serveReadConditions r s)

/-! SET_LEVEL (R154), RESUME_LEVEL (R155). -/

/-- The level SET_LEVEL sets: at most 10 from the tool origin (R154). -/
def levelSet (r : Request) (v : Nat) : Nat := if fromTool r then min v Config.toolLevel else v

/-- L becomes v with an empty stack, and what a fall of L brings (R154, R144). -/
def setLevel (v : Nat) (s : State) : State :=
  levelFell s.cu.level { s with cu := { s.cu with level := v, stack := [] } }

def ownSetLevel (r : Request) (v : Nat) (s : State) : State × Answer :=
  if 15 < v then refuse s .invalid else (setLevel (levelSet r v) s, doneWith (u8 (levelSet r v)))

def serveSetLevel (r : Request) (s : State) : State × Answer := serveRequest byte ownSetLevel r s

/-- SET_LEVEL (R154). -/
def execSetLevel (r : Request) (s : State) : Result := .next (request 25 serveSetLevel r s)

/-- L becomes the top entry of the stack, which leaves it (R155, R144). -/
def resumeLevel (top : Nat) (s : State) : State :=
  levelFell s.cu.level { s with cu := { s.cu with level := top, stack := s.cu.stack.dropLast } }

def ownResumeLevel (_ : Request) (_ : Unit) (s : State) : State × Answer :=
  match s.cu.stack.getLast? with
  | none => refuse s .sequence
  | some top => (resumeLevel top s, doneWith (u8 top))

def serveResumeLevel (r : Request) (s : State) : State × Answer := serveRequest noArgs ownResumeLevel r s

/-- RESUME_LEVEL (R155). -/
def execResumeLevel (r : Request) (s : State) : Result := .next (request 26 serveResumeLevel r s)

/-! RELEASE_HOLD (R156), ABORT_ALL (R157). -/

def ownReleaseHold (r : Request) (_ : Unit) (s : State) : State × Answer :=
  if fromTool r && decide (Config.toolLevel < s.cu.level) then refuse s .origin else (endHold s, doneAnswer)

def serveReleaseHold (r : Request) (s : State) : State × Answer := serveRequest noArgs ownReleaseHold r s

/-- RELEASE_HOLD (R156). -/
def execReleaseHold (r : Request) (s : State) : Result := .next (request 27 serveReleaseHold r s)

/-- Each working head is aborted; the order of two is free (R157, R24, log 12). -/
def abortHeads (s : State) : State :=
  if headWorking s .a && headWorking s .b then
    if pickIndex s.choice 2 = 1 then abortHead .a (abortHead .b (s.choicesTaken 1))
    else abortHead .b (abortHead .a (s.choicesTaken 1))
  else abortIfWorking .b (abortIfWorking .a s)

/-- Station hold, the aborts, and L at 15 with an empty stack (R157). -/
def abortAll (s : State) : State :=
  let s := abortHeads (beginHold s)
  { s with cu := { s.cu with level := 15, stack := [] } }

def ownAbortAll (r : Request) (_ : Unit) (s : State) : State × Answer :=
  if fromTool r then refuse s .origin else (abortAll s, doneAnswer)

def serveAbortAll (r : Request) (s : State) : State × Answer := serveRequest noArgs ownAbortAll r s

/-- ABORT_ALL (R157). -/
def execAbortAll (r : Request) (s : State) : Result := .next (request 28 serveAbortAll r s)

end Sys2Proof.Machine
end

