-- ==== Sys2Proof/Machine/StoreRequests.lean ====
section
/-! DEFINITION. The requests of the parameter store and REPLACE_CONSUMABLE (R186 to R188, R191, R97). -/

namespace Sys2Proof.Machine

/-! STORE_READ (R186). -/

def pointBytes (p : CalPoint) : List Byte := u16 p.raw ++ u32 p.thick

/-- The contents of a record, as READ and STAGE carry them (R183, R197). -/
def contentBytes : Contents → List Byte
  | .sensorCal ps => ps.flatMap pointBytes
  | .channelCal os => os.toList.flatMap i16
  | .wear w => wearBytes w
  | .protect p => yes p.sensor ++ yes p.channel

/-- State code and contents of a stored record (R183). -/
def storedRecord (x : ParameterStore) : RecordName → Nat × Option Contents
  | .sensorCal => (storedCode x.sensorRec, (validContents x.sensorRec).map .sensorCal)
  | .channelCal => (storedCode x.channelRec, (validContents x.channelRec).map .channelCal)
  | .wear => (storedCode x.wearRec, (validContents x.wearRec).map .wear)
  | .protect => (storedCode x.protectRec, (validContents x.protectRec).map .protect)

/-- The contents being programmed into a record (R186, R188). -/
def programming (x : ParameterStore) (r : RecordName) : Option Contents :=
  match x.engine with
  | none => none
  | some w => if w.contents.record = r then some w.contents else none

/-- STORED: state, programming mark, contents (R186). -/
def storedBytes (x : ParameterStore) (r : RecordName) : List Byte :=
  u8 (storedRecord x r).1 ++ yes (programming x r).isSome ++
    opt contentBytes ((programming x r).or (storedRecord x r).2)

/-- WORKING: the in-use copy (R186). The points of a copy that is not valid are free (log 19). -/
def workingBytes (x : ParameterStore) : RecordName → List Byte
  | .sensorCal =>
    match x.cal with
    | some ps => ps.flatMap pointBytes ++ yes true
    | none => (List.range 96).map Config.invalidCalByte ++ yes false
  | .channelCal => contentBytes (.channelCal x.offsets)
  | .wear => contentBytes (.wear x.live)
  | .protect => contentBytes (.protect x.protect)

def ownStoreRead (_ : Request) (a : StoreReadArgs) (s : State) : State × Answer :=
  match recordOfCode a.record with
  | none => refuse s .invalid
  | some r =>
    if a.copy = copyStored then (s, doneWith (storedBytes s.store r))
    else if a.copy = copyWorking then (s, doneWith (workingBytes s.store r))
    else refuse s .invalid

def serveStoreRead (r : Request) (s : State) : State × Answer := serveRequest storeReadArgs ownStoreRead r s

/-- STORE_READ (R186). -/
def execStoreRead (r : Request) (s : State) : Result := .next (request 29 serveStoreRead r s)

/-! STORE_STAGE (R187). -/

/-- Raw values rise strictly (R183). -/
def rawsRise : List CalPoint → Bool
  | p :: q :: rest => decide (p.raw < q.raw) && rawsRise (q :: rest)
  | _ => true

def pointsOk (ps : List CalPoint) : Bool := ps.all (fun p => within 0 200000 p.thick) && rawsRise ps

def offsetsOk (os : PerFn Int) : Bool := os.toList.all fun o => decide (-2000 ≤ o) && decide (o ≤ 2000)

/-- Protect flags from their codes (R187, check 4). -/
def protectOfCodes (sensor channel : Nat) : Option Protect :=
  match yesOfCode sensor, yesOfCode channel with
  | some a, some b => some { sensor := a, channel := b }
  | _, _ => none

def originWrite (r : Request) : WriteOrigin := if fromTool r then .tool else .interlock

/-- The staging area holds these contents (R187). -/
def stage (r : Request) (c : Contents) (s : State) : State × Answer :=
  (s.setStore { s.store with staged := some { contents := c, origin := originWrite r } }, doneAnswer)

def ownStoreStage (r : Request) (a : StagedArgs) (s : State) : State × Answer :=
  match a with
  | .unknown => refuse s .invalid
  | .wear _ => refuse s .origin
  | .protect sensor channel =>
    if fromTool r then refuse s .origin
    else
      match protectOfCodes sensor channel with
      | none => refuse s .invalid
      | some p => stage r (.protect p) s
  | .sensorCal ps =>
    if s.store.protect.sensor then refuse s .protected_
    else if pointsOk ps then stage r (.sensorCal ps) s
    else refuse s .invalid
  | .channelCal os =>
    if s.store.protect.channel then refuse s .protected_
    else if offsetsOk os then stage r (.channelCal os) s
    else refuse s .invalid

def serveStoreStage (r : Request) (s : State) : State × Answer := serveRequest stageArgs ownStoreStage r s

/-- STORE_STAGE (R187). -/
def execStoreStage (r : Request) (s : State) : Result := .next (request 30 serveStoreStage r s)

/-! STORE_COMMIT (R188). -/

/-- The record's protect flag in the PROTECT working copy (R188, check 5). -/
def isProtected (x : ParameterStore) : RecordName → Bool
  | .sensorCal => x.protect.sensor
  | .channelCal => x.protect.channel
  | .wear | .protect => false

def ownStoreCommit (r : Request) (a : Nat) (s : State) : State × Answer :=
  match recordOfCode a with
  | none => refuse s .invalid
  | some name =>
    if fromTool r && decide (name = .protect) then refuse s .origin
    else
      match s.store.staged with
      | none => refuse s .sequence
      | some w =>
        if w.contents.record ≠ name then refuse s .sequence
        else if s.store.engine.isSome then refuse s .busy
        else if isProtected s.store name then refuse s .protected_
        else (s.setStore { s.store with engine := some w, staged := none }, doneAnswer)

def serveStoreCommit (r : Request) (s : State) : State × Answer := serveRequest byte ownStoreCommit r s

/-- STORE_COMMIT (R188). -/
def execStoreCommit (r : Request) (s : State) : Result := .next (request 31 serveStoreCommit r s)

/-! STORE_RELOAD (R191). -/

/-- The working copies are set from the records, and the open sweeps discarded (R191, R34). -/
def reloadCopies (s : State) : State := discardOpenSweeps (s.setStore (loadCopies s.store))

/-- The states of the three records as the reload found them (R191). -/
def reloadBytes (x : ParameterStore) : List Byte :=
  u8 (storedCode x.sensorRec) ++ u8 (storedCode x.channelRec) ++ u8 (storedCode x.protectRec)

def ownStoreReload (_ : Request) (_ : Unit) (s : State) : State × Answer :=
  if anyHeadWorking s then refuse s .state
  else if s.store.engine.isSome then refuse s .busy
  else (reloadCopies s, doneWith (reloadBytes s.store))

def serveStoreReload (r : Request) (s : State) : State × Answer := serveRequest noArgs ownStoreReload r s

/-- STORE_RELOAD (R191). -/
def execStoreReload (r : Request) (s : State) : Result := .next (request 32 serveStoreReload r s)

/-! REPLACE_CONSUMABLE (R97). -/

/-- Steps 1 and 2 of R97 for the pad. -/
def renewPad (s : State) : State :=
  { s with
    store := { s.store with live := { s.store.live with
      pad := 0, padCount := min (s.store.live.padCount + 1) Config.countMax } }
    cdr := { s.cdr with padRem := 0 } }

/-- Steps 1 and 2 of R97 for the disk. -/
def renewDisk (s : State) : State :=
  { s with
    store := { s.store with live := { s.store.live with
      disk := 0, diskCount := min (s.store.live.diskCount + 1) Config.countMax } }
    cdr := { s.cdr with diskRem := 0 } }

def ownReplaceConsumable (_ : Request) (a : Nat) (s : State) : State × Answer :=
  if ¬(a = itemPad ∨ a = itemDisk) then refuse s .invalid
  else if s.cdr.run.isSome then refuse s .state
  else
    let t := if a = itemPad then renewPad s else renewDisk s
    (requestWearWrite (evaluateWear t), doneAnswer)

def serveReplaceConsumable (r : Request) (s : State) : State × Answer := serveRequest byte ownReplaceConsumable r s

/-- REPLACE_CONSUMABLE (R97). -/
def execReplaceConsumable (r : Request) (s : State) : Result := .next (request 33 serveReplaceConsumable r s)

end Sys2Proof.Machine
end

