-- ==== Sys2Proof/Machine/LinkEvents.lean ====
section
/-! DEFINITION. The events of the two ports: frames collected whole, line loss, the end of a transmission (chapter 7). -/

namespace Sys2Proof.Machine

/-- An event of a part that runs, after which free transmitters choose; a part that does not run takes none (R135). -/
def whenRunning (effect : State → State) (s : State) : State := if isRunning s then settle (effect s) else s

/-- The bytes collected between two frame marks on Port U (R120, R122, R124). -/
def receiveU (bytes : List Byte) (s : State) : State :=
  if frameGood bytes then sortUp bytes { s with portU := portGood s.portU }
  else { s with portU := portBad s.portU }

/-- PORT_U_RECEIVE (R124). -/
def execPortUReceive (bytes : List Byte) (s : State) : Result := .next (whenRunning (receiveU bytes) s)

/-- The bytes collected between two frame marks on Port D (R120, R122, R123, R126). -/
def receiveD (bytes : List Byte) (s : State) : State :=
  if frameGood bytes then acceptDown bytes (movePortD (portGood s.portD) s)
  else movePortD (portBad s.portD) s

/-- PORT_D_RECEIVE (R126). -/
def execPortDReceive (bytes : List Byte) (s : State) : Result := .next (whenRunning (receiveD bytes) s)

/-- Line loss at a port (R121 to R123). -/
def loseLine (p : PortName) (s : State) : State :=
  match p with
  | .u => { s with portU := portLoss s.portU }
  | .d => movePortD (portLoss s.portD) s

/-- LINE_LOSS (R121). -/
def execLineLoss (p : PortName) (s : State) : Result := .next (whenRunning (loseLine p) s)

/-- The frame on a transmitter ends and the transmitter becomes free (R129); on a free one there is no such event
(log 9). -/
def endTransmission (p : PortName) (s : State) : State :=
  match p with
  | .u => { s with portU := { s.portU with tx := .free } }
  | .d => { s with portD := { s.portD with tx := .free } }

/-- TRANSMIT_END (R129). -/
def execTransmitEnd (p : PortName) (s : State) : Result := .next (whenRunning (endTransmission p) s)

end Sys2Proof.Machine
end

