-- ==== Sys2Proof/Machine/TimerEvents.lean ====
section
/-! DEFINITION. The expiries of the timers and the completion of a programming. An expiry whose timer does not run, or
has not reached its deadline, is no event and does nothing (log 8). -/

namespace Sys2Proof.Machine

/-! Step timer (R12) and sample-gap timer (R13). -/

/-- A head's step timer runs and its deadline is reached (R12). -/
def stepTimerDue (s : State) (h : Head) : Bool :=
  match (s.seq h).timer with
  | .running d => reached s.base.time d
  | .stopped | .frozen _ | .expired => false

def stepTimeoutSource : Head → SourceId
  | .a => .stepTimeoutA
  | .b => .stepTimeoutB

/-- The step timer expires (R12). -/
def stepTimerExpires (h : Head) (s : State) : State :=
  match s.currentStep h with
  | none => s
  | some st =>
    match st.endMode with
    | .time | .endpointOrTime => endStep h .time s
    | .endpoint =>
      occurrence (stepTimeoutSource h) (.step ((currentIndex (s.seq h)).getD 0))
        (s.setSeq h { s.seq h with timer := .expired })

/-- STEP_TIMER_EXPIRY (R12). -/
def execStepTimerExpiry (h : Head) (s : State) : Result :=
  .next (whenRunning (fun s => if stepTimerDue s h then stepTimerExpires h s else s) s)

/-- A deadline that runs and is reached. -/
def deadlineDue (s : State) (d : Option Time) : Bool := d.any (reached s.base.time)

def sampleGapSource : Head → SourceId
  | .a => .sampleGapA
  | .b => .sampleGapB

/-- The sample-gap timer expires (R13). -/
def sampleGapExpires (h : Head) (s : State) : State :=
  occurrence (sampleGapSource h) (.step ((currentIndex (s.seq h)).getD 0))
    (s.setSeq h { s.seq h with gap := none })

/-- SAMPLE_GAP_EXPIRY (R13). -/
def execSampleGapExpiry (h : Head) (s : State) : Result :=
  .next (whenRunning (fun s => if deadlineDue s (s.seq h).gap then sampleGapExpires h s else s) s)

/-! Conditioner timers (R92 to R94). -/

/-- The deadline of the arrival timer while it runs (R88). -/
def arrivalDeadline : Option CondRun → Option Time
  | some { phase := .travel d, .. } => d
  | _ => none

/-- The deadline of the dwell timer while it runs (R88). -/
def dwellDeadline : Option CondRun → Option Time
  | some { phase := .dwell d, .. } => some d
  | _ => none

/-- The arrival timer expires (R92). -/
def arrivalExpires (s : State) : State :=
  match s.cdr.run with
  | none => s
  | some run =>
    occurrence .armStall (.arm run.program run.segment run.target)
      (s.setRun (some { run with phase := .travel none }))

/-- ARRIVAL_TIMER_EXPIRY (R92). -/
def execArrivalTimerExpiry (s : State) : Result :=
  .next (whenRunning (fun s => if deadlineDue s (arrivalDeadline s.cdr.run) then arrivalExpires s else s) s)

/-- The live counters and remainders after a dwell of d ms at force f (R94). -/
def wearAdded (f d : Nat) (s : State) : State :=
  let pad := f * d + s.cdr.padRem
  let disk := d + s.cdr.diskRem
  { s with
    store := { s.store with live := { s.store.live with
      pad := min (s.store.live.pad + pad / 10000) Config.wearMax
      disk := min (s.store.live.disk + disk / 1000) Config.wearMax } }
    cdr := { s.cdr with padRem := pad % 10000, diskRem := disk % 1000 } }

/-- The next segment's travel, after the last segment from segment 1 with the pass count raised (R93). -/
def nextTravel (run : CondRun) (p : CondProgram) (s : State) : State :=
  let last := decide (p.segments.length ≤ run.segment)
  let run := if last then { run with passes := min (run.passes + 1) Config.countMax } else run
  let n := if last then 1 else run.segment + 1
  match segmentAt p n with
  | none => s
  | some seg => enterTravel run n seg s

/-- Both the applied force and the applied speed are above 0: an ended dwell adds wear (R94). -/
def addsWear (run : CondRun) : Bool := decide (0 < run.force) && decide (0 < run.speed)

/-- The dwell timer expires (R93): the wear of the dwell, then the next travel. A stop that the taking of a wear
presence brings falls after this work (R93, R95), so the presences are evaluated (R96) when the travel has begun: DEDUCED
(log 34). -/
def dwellEnds (run : CondRun) (p : CondProgram) (d : Nat) (s : State) : State :=
  if addsWear run then evaluateWear (nextTravel run p (wearAdded run.force d s)) else nextTravel run p s

def dwellExpires (s : State) : State :=
  match s.cdr.run with
  | none => s
  | some run =>
    match tableGet s.cdr.programs run.program with
    | none => s
    | some p =>
      match segmentAt p run.segment with
      | none => s
      | some seg => dwellEnds run p seg.dwell s

/-- DWELL_TIMER_EXPIRY (R93). -/
def execDwellTimerExpiry (s : State) : Result :=
  .next (whenRunning (fun s => if deadlineDue s (dwellDeadline s.cdr.run) then dwellExpires s else s) s)

/-! Deviation dwell (R114), supervision (R176). -/

/-- A function's deviation dwell timer runs and is due (R114). -/
def deviationDue (s : State) (f : Fn) : Bool :=
  match (s.fn f).dev with
  | .dwell d => reached s.base.time d
  | .inBand | .deviated => false

/-- DEVIATION_DWELL_EXPIRY (R114). -/
def execDeviationDwellExpiry (f : Fn) (s : State) : Result :=
  .next (whenRunning (fun s => if deviationDue s f then becomeDeviated f s else s) s)

/-- The supervision timer expires (R176). -/
def supervisionExpires (s : State) : State :=
  beginPresence .supervisionLoss none { s with mgmt := { s.mgmt with supTimer := none, supLoss := true } }

/-- SUPERVISION_EXPIRY (R176). -/
def execSupervisionExpiry (s : State) : Result :=
  .next (whenRunning (fun s => if deadlineDue s s.mgmt.supTimer then supervisionExpires s else s) s)

/-! Commit completion (R189, R190). -/

/-- The engine becomes IDLE, or starts the pending internal WEAR write (R189, step 3; R190). -/
def engineNext (s : State) : State :=
  if s.store.wearPending then s.setStore (startWearWrite s.store) else s.setStore { s.store with engine := none }

/-- A programming completes (R189). -/
def programmed (w : Write) (s : State) : State :=
  engineNext (queueEvent .storeCommitted none
    [dv (recordCode w.contents.record), dv (writeOriginCode w.origin)]
    (s.setStore (storeValid s.store w.contents)))

/-- COMMIT_COMPLETION (R189). With the engine IDLE there is no completion (log 8). -/
def execCommitCompletion (s : State) : Result :=
  .next (whenRunning (fun s =>
    match s.store.engine with
    | none => s
    | some w => programmed w s) s)

end Sys2Proof.Machine
end

