-- ==== Sys2Proof/Machine/ResetEvents.lean ====
section
/-! DEFINITION. Hardware reset, its release, and the end of the store load (R135, R136, R185, R192). -/

namespace Sys2Proof.Machine

/-- The records after a hardware reset: the one being programmed is INVALID (R192). -/
def cutOff (x : ParameterStore) : ParameterStore :=
  match x.engine with
  | none => x
  | some w => storeInvalid x w.contents

/-- The parameter store after a hardware reset: the four records are kept, and nothing else (R183, R192). -/
def hardwareResetStore (x : ParameterStore) : ParameterStore :=
  let y := cutOff x
  { resetStore with
    sensorRec := y.sensorRec, channelRec := y.channelRec, wearRec := y.wearRec, protectRec := y.protectRec }

/-- HARDWARE_RESET (R135). The commands that wait and the choice counter are the model's own and stay (log 29). -/
def execHardwareReset (s : State) : Result :=
  .next { State.reset with pending := s.pending, choice := s.choice, store := hardwareResetStore s.store }

/-- The own address of a strap value (R136, step 1). -/
def strapAddress (straps : BitVec 6) : Nat :=
  if 1 ≤ straps.toNat ∧ straps.toNat ≤ 61 then straps.toNat else 61

/-- RESET_RELEASE (R136, step 1): the straps are latched and the store load starts. Without hardware reset there is
nothing to release (log 9). -/
def execResetRelease (straps : BitVec 6) (rateHigh : Bool) (s : State) : Result :=
  .next
    (if s.base.phase = .asserted then
      { s with
        base := { phase := .loading, time := 0, ownAddr := strapAddress straps
                  rate := if rateHigh then .mbit25 else .mbit10 }
        mgmt := { s.mgmt with mode := .transparent } }
    else s)

/-- A record found BLANK or INVALID raises STORE_FAULT (R185). -/
def reportRecord {α : Type} (x : Stored α) (r : RecordName) (s : State) : State :=
  match x with
  | .valid _ => s
  | .blank | .invalid => occurrence .storeFault (.record r) s

/-- The records are read in order, with their occurrences (R185). -/
def reportRecords (x : ParameterStore) (s : State) : State :=
  reportRecord x.protectRec .protect (reportRecord x.wearRec .wear
    (reportRecord x.channelRec .channelCal (reportRecord x.sensorRec .sensorCal s)))

/-- The data of STARTED (R136, R178, R198). -/
def startedData (s : State) : List (BitVec 32) :=
  [dv s.base.ownAddr, dv (rateCode s.base.rate),
   dv (storedCode s.store.sensorRec * 16777216 + storedCode s.store.channelRec * 65536 +
       storedCode s.store.wearRec * 256 + storedCode s.store.protectRec)]

/-- The in-use state is set from the records (R185); the open sweeps of a reload are discarded (R34). -/
def loadStore (s : State) : State := discardOpenSweeps (s.setStore (loadLive (loadCopies s.store)))

/-- The bypass switch opens, and Port D reports that it is OFFLINE (R136, step 3; R137, R123). -/
def openBypass (s : State) : State :=
  beginPresence .portDLoss none { s with base := { s.base with phase := .running } }

/-- Steps 2 to 4 of reset release (R136, R185, R182). -/
def storeLoaded (s : State) : State :=
  let s := openBypass (reportRecords s.store (loadStore s))
  queueEvent .started none (startedData s) s

/-- STORE_LOAD_DONE (R185, R136, R182). Without a load there is no such event (log 9). -/
def execStoreLoadDone (s : State) : Result :=
  .next (if s.base.phase = .loading then settle (storeLoaded s) else s)

end Sys2Proof.Machine
end

