-- ==== Sys2Proof/Machine/Catalogue.lean ====
section
/-! DEFINITION. The request catalogue (R163): how a payload taken from the request queue is served. -/

namespace Sys2Proof.Machine

/-- The service of each request code (R163); a code outside 1 to 34 has none. -/
def serveCode : Nat → Option (Request → State → State × Answer)
  | 1 => some serveIdentify
  | 2 => some serveHeartbeat
  | 3 => some serveReadState
  | 4 => some serveSetMode
  | 5 => some serveWriteLimits
  | 6 => some serveReadLimits
  | 7 => some serveMapFunction
  | 8 => some serveLoadZoneMap
  | 9 => some serveLoadStep
  | 10 => some serveLoadBlend
  | 11 => some serveLoadConditioning
  | 12 => some serveLoadPadService
  | 13 => some serveLoadProgram
  | 14 => some serveStartHead
  | 15 => some servePauseHead
  | 16 => some serveResumeHead
  | 17 => some serveSkipStep
  | 18 => some serveAbortHead
  | 19 => some serveReadResult
  | 20 => some serveReadProfile
  | 21 => some serveSetSource
  | 22 => some serveClearSource
  | 23 => some serveSimulateSource
  | 24 => some serveReadConditions
  | 25 => some serveSetLevel
  | 26 => some serveResumeLevel
  | 27 => some serveReleaseHold
  | 28 => some serveAbortAll
  | 29 => some serveStoreRead
  | 30 => some serveStoreStage
  | 31 => some serveStoreCommit
  | 32 => some serveStoreReload
  | 33 => some serveReplaceConsumable
  | 34 => some serveStationReset
  | _ => none

/-- The service of a payload: its code's, or that of a payload that names no request (R161, R163, R197). -/
def servePayload (payload : List Byte) : Request → State → State × Answer :=
  match payload with
  | code :: _ :: _ => (serveCode code.toNat).getD serveUnknown
  | _ => serveShort

/-- The request at the head of the request queue can be taken (R160). -/
def canTakeQueued (s : State) : Bool := isRunning s && canTake s && !s.mgmt.requests.isEmpty

/-- The management unit takes the request at the head of its queue and serves it (R160). -/
def takeQueued (s : State) : State :=
  match s.mgmt.requests with
  | [] => s
  | q :: rest =>
    completeRequest (servePayload q.payload) (payloadRequest q.source q.payload)
      { s with mgmt := { s.mgmt with requests := rest } }

end Sys2Proof.Machine
end

