-- ==== Sys2Proof/Machine/Dispatch.lean ====
section
/-! DEFINITION. exec: one arm per command of the opcode table, each a direct call of its meaning. -/

namespace Sys2Proof.Machine

def exec (i : Instr) (s : State) : Host.Outcome State Fault Refusal :=
  match i with
  | .identify r => Sys2Proof.Machine.execIdentify r s
  | .heartbeat r => Sys2Proof.Machine.execHeartbeat r s
  | .readState r => Sys2Proof.Machine.execReadState r s
  | .setMode r => Sys2Proof.Machine.execSetMode r s
  | .writeLimits r => Sys2Proof.Machine.execWriteLimits r s
  | .readLimits r => Sys2Proof.Machine.execReadLimits r s
  | .mapFunction r => Sys2Proof.Machine.execMapFunction r s
  | .loadZoneMap r => Sys2Proof.Machine.execLoadZoneMap r s
  | .loadStep r => Sys2Proof.Machine.execLoadStep r s
  | .loadBlend r => Sys2Proof.Machine.execLoadBlend r s
  | .loadConditioning r => Sys2Proof.Machine.execLoadConditioning r s
  | .loadPadService r => Sys2Proof.Machine.execLoadPadService r s
  | .loadProgram r => Sys2Proof.Machine.execLoadProgram r s
  | .startHead r => Sys2Proof.Machine.execStartHead r s
  | .pauseHead r => Sys2Proof.Machine.execPauseHead r s
  | .resumeHead r => Sys2Proof.Machine.execResumeHead r s
  | .skipStep r => Sys2Proof.Machine.execSkipStep r s
  | .abortHead r => Sys2Proof.Machine.execAbortHead r s
  | .readResult r => Sys2Proof.Machine.execReadResult r s
  | .readProfile r => Sys2Proof.Machine.execReadProfile r s
  | .setSource r => Sys2Proof.Machine.execSetSource r s
  | .clearSource r => Sys2Proof.Machine.execClearSource r s
  | .simulateSource r => Sys2Proof.Machine.execSimulateSource r s
  | .readConditions r => Sys2Proof.Machine.execReadConditions r s
  | .setLevel r => Sys2Proof.Machine.execSetLevel r s
  | .resumeLevel r => Sys2Proof.Machine.execResumeLevel r s
  | .releaseHold r => Sys2Proof.Machine.execReleaseHold r s
  | .abortAll r => Sys2Proof.Machine.execAbortAll r s
  | .storeRead r => Sys2Proof.Machine.execStoreRead r s
  | .storeStage r => Sys2Proof.Machine.execStoreStage r s
  | .storeCommit r => Sys2Proof.Machine.execStoreCommit r s
  | .storeReload r => Sys2Proof.Machine.execStoreReload r s
  | .replaceConsumable r => Sys2Proof.Machine.execReplaceConsumable r s
  | .stationReset r => Sys2Proof.Machine.execStationReset r s
  | .unknownRequest origin payload => Sys2Proof.Machine.execUnknownRequest origin payload s
  | .portUReceive bytes => Sys2Proof.Machine.execPortUReceive bytes s
  | .portDReceive bytes => Sys2Proof.Machine.execPortDReceive bytes s
  | .lineLoss p => Sys2Proof.Machine.execLineLoss p s
  | .transmitEnd p => Sys2Proof.Machine.execTransmitEnd p s
  | .stepTimerExpiry h => Sys2Proof.Machine.execStepTimerExpiry h s
  | .sampleGapExpiry h => Sys2Proof.Machine.execSampleGapExpiry h s
  | .arrivalTimerExpiry => Sys2Proof.Machine.execArrivalTimerExpiry s
  | .dwellTimerExpiry => Sys2Proof.Machine.execDwellTimerExpiry s
  | .deviationDwellExpiry f => Sys2Proof.Machine.execDeviationDwellExpiry f s
  | .supervisionExpiry => Sys2Proof.Machine.execSupervisionExpiry s
  | .commitCompletion => Sys2Proof.Machine.execCommitCompletion s
  | .hardwareReset => Sys2Proof.Machine.execHardwareReset s
  | .resetRelease straps rateHigh => Sys2Proof.Machine.execResetRelease straps rateHigh s
  | .storeLoadDone => Sys2Proof.Machine.execStoreLoadDone s

end Sys2Proof.Machine
end

