-- ==== Sys2Proof/Machine/Arrivals.lean ====
section
/-! DEFINITION. What the part does by itself when no command waits: it takes the request at the head of its request
queue (R160), takes the expiries of its timers (00 section 6), and counts station time (R1). DESIGN CHOICE (logs 2, 3). -/

namespace Sys2Proof.Machine

/-- An arrival of the part's own: the management unit's taking of a request, or an expiry. -/
inductive OwnArrival where
  | request
  | expiry (i : Instr)
deriving DecidableEq, Repr

/-- An expiry, when it is due. -/
def expiryIf (due : Bool) (i : Instr) : List OwnArrival := if due then [.expiry i] else []

/-- The own arrivals that are possible now. -/
def ownArrivals (s : State) : List OwnArrival :=
  (if canTakeQueued s then [.request] else []) ++
  (if isRunning s then
    expiryIf (stepTimerDue s .a) (.stepTimerExpiry .a) ++ expiryIf (stepTimerDue s .b) (.stepTimerExpiry .b) ++
    expiryIf (deadlineDue s (s.seq .a).gap) (.sampleGapExpiry .a) ++
    expiryIf (deadlineDue s (s.seq .b).gap) (.sampleGapExpiry .b) ++
    expiryIf (deadlineDue s (arrivalDeadline s.cdr.run)) .arrivalTimerExpiry ++
    expiryIf (deadlineDue s (dwellDeadline s.cdr.run)) .dwellTimerExpiry ++
    Fn.all.flatMap (fun f => expiryIf (deviationDue s f) (.deviationDwellExpiry f)) ++
    expiryIf (deadlineDue s s.mgmt.supTimer) .supervisionExpiry
  else [])

/-- One millisecond of station time; none while hardware reset is asserted (R1, log 24). -/
def tick (s : State) : State :=
  if s.base.phase = .asserted then s else { s with base := { s.base with time := s.base.time + 1 } }

/-- An own arrival is taken. -/
def takeArrival (a : OwnArrival) (s : State) : Host.Outcome State Fault Refusal :=
  match a with
  | .request => .next (takeQueued s)
  | .expiry i => exec i s

/-- The step of a part for which no command waits: one of its own arrivals, freely chosen, or the passing of 1 ms. -/
def idleStep (s : State) : Host.Outcome State Fault Refusal :=
  let arrivals := ownArrivals s
  match arrivals[pickIndex s.choice arrivals.length]? with
  | some a => takeArrival a (s.choicesTaken (arrivals.length - 1))
  | none => .next (tick s)

end Sys2Proof.Machine
end

