-- ==== Sys2Proof/Safety.lean ====
section
/-! DEFINITION. What counts as a good state and a safe run of the part, and the few notions in which the statements about
the commands are written. -/

namespace Sys2Proof.Machine

/-! Requests. -/

/-- The request a command carries; none for the events. A payload that names no request is read as R197 says. -/
def requestOf : Instr → Option Request
  | .identify r | .heartbeat r | .readState r | .setMode r | .writeLimits r | .readLimits r | .mapFunction r
  | .loadZoneMap r | .loadStep r | .loadBlend r | .loadConditioning r | .loadPadService r | .loadProgram r
  | .startHead r | .pauseHead r | .resumeHead r | .skipStep r | .abortHead r | .readResult r | .readProfile r
  | .setSource r | .clearSource r | .simulateSource r | .readConditions r | .setLevel r | .resumeLevel r
  | .releaseHold r | .abortAll r | .storeRead r | .storeStage r | .storeCommit r | .storeReload r
  | .replaceConsumable r | .stationReset r => some r
  | .unknownRequest origin payload => some (payloadRequest origin payload)
  | .portUReceive _ | .portDReceive _ | .lineLoss _ | .transmitEnd _ => none
  | .stepTimerExpiry _ | .sampleGapExpiry _ | .arrivalTimerExpiry | .dwellTimerExpiry => none
  | .deviationDwellExpiry _ | .supervisionExpiry | .commitCompletion => none
  | .hardwareReset | .resetRelease _ _ | .storeLoadDone => none

/-- The request code of a command (R163); none for the events and for payloads that name no request. -/
def codeOf : Instr → Option Nat
  | .identify _ => some 1
  | .heartbeat _ => some 2
  | .readState _ => some 3
  | .setMode _ => some 4
  | .writeLimits _ => some 5
  | .readLimits _ => some 6
  | .mapFunction _ => some 7
  | .loadZoneMap _ => some 8
  | .loadStep _ => some 9
  | .loadBlend _ => some 10
  | .loadConditioning _ => some 11
  | .loadPadService _ => some 12
  | .loadProgram _ => some 13
  | .startHead _ => some 14
  | .pauseHead _ => some 15
  | .resumeHead _ => some 16
  | .skipStep _ => some 17
  | .abortHead _ => some 18
  | .readResult _ => some 19
  | .readProfile _ => some 20
  | .setSource _ => some 21
  | .clearSource _ => some 22
  | .simulateSource _ => some 23
  | .readConditions _ => some 24
  | .setLevel _ => some 25
  | .resumeLevel _ => some 26
  | .releaseHold _ => some 27
  | .abortAll _ => some 28
  | .storeRead _ => some 29
  | .storeStage _ => some 30
  | .storeCommit _ => some 31
  | .storeReload _ => some 32
  | .replaceConsumable _ => some 33
  | .stationReset _ => some 34
  | .unknownRequest _ _ => none
  | .portUReceive _ | .portDReceive _ | .lineLoss _ | .transmitEnd _ => none
  | .stepTimerExpiry _ | .sampleGapExpiry _ | .arrivalTimerExpiry | .dwellTimerExpiry => none
  | .deviationDwellExpiry _ | .supervisionExpiry | .commitCompletion => none
  | .hardwareReset | .resetRelease _ _ | .storeLoadDone => none

/-- The part runs, takes a request the moment it arrives, and serves this one's origin (R160, R161 step 1). -/
def Admitted (r : Request) (s : State) : Prop :=
  isRunning s = true ∧ takesAtOnce s = true ∧ originServed r.origin = true

/-- The state an owning rule finds: the request taken, and supervision restarted for a tool request in ACTIVE mode
(R161 step 2, R175, R176). -/
def served (r : Request) (s : State) : State := superviseRequest r.origin (beginRequest s)

/-- The response to a request at the tail of the response queue (R162). -/
def answered (r : Request) (o : OutcomeCode) (results : List Byte) (s : State) : State :=
  { s with mgmt := { s.mgmt with
      responses := s.mgmt.responses ++ [{ dest := r.origin, tag := r.tag, outcome := o, results }] } }

/-- The whole outcome of a request: this effect, this answer, and then each free transmitter's choice (R160, R129). -/
def completes (r : Request) (o : OutcomeCode) (results : List Byte) (effect : State) : Result :=
  .next (settle (answered r o results effect))

/-- A request with a head as its one argument names this head (R195). -/
def namesHead (r : Request) (h : Head) : Prop := r.args = [BitVec.ofNat 8 (headCode h)]

/-! Frames: what two states have in common, block by block. -/

/-- Sequencers, step table, sample unit and zone control unit are as they were. -/
def keepsHeads (s t : State) : Prop :=
  t.seqs = s.seqs ∧ t.steps = s.steps ∧ t.samplers = s.samplers ∧ t.comps = s.comps

/-- Arbiter, dosing unit and conditioner unit are as they were. -/
def keepsPad (s t : State) : Prop := t.arb = s.arb ∧ t.dose = s.dose ∧ t.cdr = s.cdr

/-- Ports and forward queues are as they were. -/
def keepsPorts (s t : State) : Prop := t.portU = s.portU ∧ t.portD = s.portD ∧ t.fwd = s.fwd

/-- Function map and setpoint slots are as they were. -/
def keepsFunctions (s t : State) : Prop := t.fmap = s.fmap ∧ t.slots = s.slots

/-- Time base, waiting commands and free choices are as they were. -/
def keepsBase (s t : State) : Prop := t.base = s.base ∧ t.pending = s.pending ∧ t.choice = s.choice

/-- Nothing has changed but the management unit and what `t` is said to differ in besides. -/
def keepsAllButManagement (s t : State) : Prop :=
  keepsHeads s t ∧ keepsPad s t ∧ keepsPorts s t ∧ keepsFunctions s t ∧ keepsBase s t ∧ t.cu = s.cu ∧
    t.store = s.store

/-- A level source after a report that its real presence is lost: it stays present while it is simulated, and is IDLE
without data otherwise; a source that was not really present is as it was (R141). -/
def withoutPresence (x : Source) : Source :=
  if x.real then
    if x.sim then { x with real := false } else { x with real := false, state := .idle, data := none }
  else x

/-- The value pending in a slot (R108). -/
def slotValue (s : State) (f : Fn) : Option Nat := (s.slots.get f).map Slot.value

/-- The wear counter of an item is at or above its life limit, with the limit block written (R96). -/
def wornOut (s : State) (counter : Wear → Nat) (life : LimitBlock → Nat) : Prop :=
  ∃ l, s.mgmt.limits = some l ∧ life l ≤ counter s.store.live

/-! Invariants. -/

/-- No queue of the part holds more than the spec gives it, and nothing waits in the response queue while a response is
held back (R125, R127, R160, R162, R177). -/
structure QueuesBounded (s : State) : Prop where
  down      : s.fwd.down.length ≤ Config.downCapacity
  up        : s.fwd.up.length ≤ Config.upCapacity
  requests  : s.mgmt.requests.length ≤ Config.requestCapacity
  responses : s.mgmt.responses.length ≤ Config.responseCapacity
  heldBack  : s.mgmt.heldBack ≠ none → s.mgmt.responses = []
  events    : s.mgmt.events.length ≤ Config.eventCapacity

/-- A head's sweep history: at most 8 records, in increasing sweep number, none above the sweep counter (R45, R46). -/
structure HistoryOrdered (p : Sampler) : Prop where
  short  : p.history.length ≤ Config.historyCapacity
  rising : (p.history.map SweepRecord.number).Pairwise (· < ·)
  below  : ∀ r ∈ p.history, r.number ≤ p.counter
  count  : p.counter ≤ Config.longMax

/-- Severities lie in 1 to 15, those of the special sources as R138 fixes them, and only a special source has the action
RESET (R138, R146). -/
structure SettingsOk (u : ConditionUnit) : Prop where
  low         : ∀ k, 1 ≤ (u.sources.get k).severity
  high        : ∀ k, (u.sources.get k).severity ≤ 15
  supervision : (u.sources.get .supervisionLoss).severity = 14
  portD       : (u.sources.get .portDLoss).severity = 13
  reset       : ∀ k, (u.sources.get k).action = .reset → isSpecial k = true

/-- L lies in 0 to 15; the stack rises strictly from bottom to top, each entry is below L, and there are at most 15
(R142). -/
structure LevelsOk (u : ConditionUnit) : Prop where
  level  : u.level ≤ 15
  rising : u.stack.Pairwise (· < ·)
  below  : ∀ x ∈ u.stack, x < u.level
  depth  : u.stack.length ≤ 15

/-- No two keys of the function map hold the same node channel (R100). -/
structure ChannelsDistinct (s : State) : Prop where
  functions : ∀ f g c, (s.fn f).assign = some c → (s.fn g).assign = some c → f = g
  sensor    : ∀ f c, (s.fn f).assign = some c → s.fmap.sensor ≠ some c

/-- In TRANSPARENT mode no slot is pending, no head works, supervision stands still and every function is IN_BAND with
an echo count of 0; ACTIVE mode has its limit block; a part that does not run is TRANSPARENT (R8, R108, R116, R136, R168,
R169, R175). -/
structure ModeKept (s : State) : Prop where
  held   : s.base.phase ≠ .running → s.mgmt.mode = .transparent
  limits : s.mgmt.mode = .active → s.mgmt.limits.isSome = true
  slots  : s.mgmt.mode = .transparent → ∀ f, s.slots.get f = none
  heads  : s.mgmt.mode = .transparent → anyHeadWorking s = false
  timer  : s.mgmt.mode = .transparent → s.mgmt.supTimer = none
  loss   : s.mgmt.mode = .transparent → s.mgmt.supLoss = false
  inBand : s.mgmt.mode = .transparent → ∀ f, (s.fn f).dev = .inBand ∧ (s.fn f).echo = 0

/-- Timers and interval of a head as the table of 01 section 1.3 has them: the step timer runs in POLISHING alone, is
FROZEN in PAUSED alone, EXPIRED in those two alone; the sample-gap timer runs, and a polishing interval is open, in
POLISHING alone (R12, R13, R25). -/
structure TimersKept (q : Sequencer) : Prop where
  running  : ∀ d, q.timer = .running d → q.state = .polishing
  frozen   : ∀ d, q.timer = .frozen d → q.state = .paused
  expired  : q.timer = .expired → q.state = .polishing ∨ q.state = .paused
  gap      : ∀ d, q.gap = some d → q.state = .polishing
  interval : ∀ c d, q.current = some c → c.interval = some d → q.state = .polishing

/-- The mode, and the timers of both heads. -/
structure StationKept (s : State) : Prop where
  mode : ModeKept s
  a    : TimersKept (s.seq .a)
  b    : TimersKept (s.seq .b)

/-- The ranges of the WEAR record (R183, R184). -/
structure WearOk (w : Wear) : Prop where
  pad       : w.pad ≤ Config.wearMax
  disk      : w.disk ≤ Config.wearMax
  padCount  : w.padCount ≤ Config.countMax
  diskCount : w.diskCount ≤ Config.countMax
  wafers    : w.wafers ≤ Config.longMax

/-- The live counters, the WEAR record and a WEAR write in the engine keep their ranges, and so do the remainders; an
internal WEAR write is marked pending only while the engine programs; WEAR is never staged (R94, R97, R183, R187, R190). -/
structure StoreKept (s : State) : Prop where
  live     : WearOk s.store.live
  record   : ∀ w, s.store.wearRec = .valid w → WearOk w
  engine   : ∀ w o, s.store.engine = some { contents := .wear w, origin := o } → WearOk w
  padRem   : s.cdr.padRem < 10000
  diskRem  : s.cdr.diskRem < 1000
  pending  : s.store.wearPending = true → s.store.engine ≠ none
  staged   : ∀ w, s.store.staged = some w → w.contents.record ≠ .wear

/-! The pad (R72). -/

/-- The pad service entry that a head's current step names (R2, R6). -/
def stepEntryOf (s : State) (h : Head) : Option Nat := (s.currentStep h).bind StepRecord.pad

/-- A step in the program of a head in WAIT_PAD, POLISHING, PAUSED or HOLD names a pad service entry (R71, R81, R87). -/
def namedByWork (s : State) (e : Nat) : Prop :=
  ∃ h p i st, headWorking s h = true ∧ (s.seq h).program = some p ∧ i ∈ p ∧ tableGet s.steps i = some st ∧
    st.pad = some e

/-- POLISHING or PAUSED: the states in which a head holds the entry its step names (R72). -/
def onPad (s : State) (h : Head) : Prop := (s.seq h).state = .polishing ∨ (s.seq h).state = .paused

/-- Loaded programs name loaded steps, and a working head stands at a position of its program (R6, R8, R26). -/
structure ProgramKept (s : State) (h : Head) : Prop where
  loaded   : ∀ p, (s.seq h).program = some p → ∀ i ∈ p, (tableGet s.steps i).isSome = true
  position : headWorking s h = true →
    ∃ p n, (s.seq h).program = some p ∧ (s.seq h).position = some n ∧ 1 ≤ n ∧ n ≤ p.length

/-- Who holds the pad and who waits for it: a head is a holder exactly when it is in POLISHING or PAUSED and its step
names the granted entry; it waits exactly while it is in WAIT_PAD; with station hold off, heads wait only behind another
entry; the conditioner runs only the program of the granted entry (R72, R73, R78, R88). -/
structure PadKept (s : State) : Prop where
  programA : ProgramKept s .a
  programB : ProgramKept s .b
  holders  : ∀ g h, s.arb.service = some g →
    (g.holders.get h = true ↔ onPad s h ∧ stepEntryOf s h = some g.entry)
  other    : ∀ h, onPad s h → stepEntryOf s h ≠ none → s.arb.service.map Grant.entry = stepEntryOf s h
  held     : ∀ g, s.arb.service = some g → g.holders.a = true ∨ g.holders.b = true
  hold     : s.arb.hold = true → s.arb.service = none
  waiters  : ∀ h e, (h, e) ∈ s.arb.waiting ↔ (s.seq h).state = .waitPad ∧ stepEntryOf s h = some e
  waits    : ∀ h, (s.seq h).state = .waitPad → stepEntryOf s h ≠ none
  once     : (s.arb.waiting.map Prod.fst).Nodup
  behind   : s.arb.hold = false → ∀ w ∈ s.arb.waiting, ∃ g, s.arb.service = some g ∧ w.2 ≠ g.entry
  running  : ∀ r, s.cdr.run = some r →
    ∃ g, s.arb.service = some g ∧ (tableGet s.arb.table g.entry).bind PadService.program = some r.program

end Sys2Proof.Machine
end

