-- ==== Sys2Proof/Certificates/Slice0/Obligations.lean ====
section
/-! DEFINITION. The statements for the provers. Each is a rule of spec/ (or rests on the sections its list entry cites),
said of `exec`, `step` or of the named operation that carries the rule. In the request statements `Admitted r s` says that
the part runs, takes the request at once and serves its origin; `served r s` is the state an owning rule finds; `completes`
is the whole outcome: the effect, the answer, and then each free transmitter's choice (`settle`), which
`SettleMovesOnlyTraffic` and the two statements after it describe. That this choice falls at the end of the step is forced
by R129 where the step places one answer or one record alone, and is the model's choice (log 10) elsewhere. -/

open Sys2Proof Sys2Proof.Machine

/-! ## The step and the queue of commands -/

/-- The command at the front of the queue is taken, and its outcome is the step's (log 1). -/
def Obligations.StepTakesTheFrontCommand : Prop :=
  ∀ (c : Instr) (rest : List Instr) (s : State),
    s.pending = c :: rest → step s = exec c { s with pending := rest }

/-- No command touches the queue of the commands that wait. The queue is the model's own (log 1), and that HARDWARE_RESET
keeps it too is the model's choice (log 29). -/
def Obligations.CommandsLeaveTheQueue : Prop :=
  ∀ (c : Instr) (s t : State), exec c s = .next t → t.pending = s.pending

/-- With no command waiting the part acts by itself: it takes one of its own arrivals, when one is possible, and
counts 1 ms of station time otherwise; the latter is the model's choice (log 2, log 3). -/
def Obligations.IdlePartActsByItself : Prop :=
  ∀ s : State, s.pending = [] →
    (ownArrivals s = [] → step s = .next (tick s)) ∧
    (ownArrivals s ≠ [] →
      ∃ a ∈ ownArrivals s, step s = takeArrival a (s.choicesTaken ((ownArrivals s).length - 1)))

/-- What the model holds right after reset: the values of R28, R49, R68, R84, R98, R117, R137, R158 and R181. That
this state has hardware reset still asserted is the model's choice (log 4). -/
def Obligations.ResetHoldsTheStatedValues : Prop :=
  State.reset.base.phase = .asserted ∧
  (∀ h, State.reset.seq h =
    { state := .empty, program := none, position := none, timer := .stopped, gap := none
      confirm := ⟨0, 0, 0, 0, 0, 0⟩, cleared := ⟨false, false, false, false, false, false⟩
      commanded := ⟨⟨none, none, none, none, none, none⟩, none⟩, results := [], current := none }) ∧
  (∀ i, tableGet State.reset.steps i = none) ∧
  (∀ h, State.reset.sampler h = { zoneMap := none, openSweep := none, counter := 0, history := [] }) ∧
  (∀ h, State.reset.comp h = none) ∧
  State.reset.arb = { table := [], service := none, waiting := [], hold := false } ∧
  State.reset.dose = { blends := [], current := none } ∧
  State.reset.cdr = { programs := [], run := none, padRem := 0, diskRem := 0, padWorn := false, diskWorn := false } ∧
  (∀ f, State.reset.fn f =
    { assign := none, status := none, ready := false, lastTx := none, echo := 0, dev := .inBand, clamped := false }) ∧
  State.reset.fmap.sensor = none ∧ (∀ f, State.reset.slots.get f = none) ∧
  (∀ p ∈ [State.reset.portU, State.reset.portD],
    p = { link := .offline 0, streak := 0, tx := .free, last := .own }) ∧
  State.reset.fwd = { down := [], up := [] } ∧
  State.reset.cu.level = 0 ∧ State.reset.cu.stack = [] ∧
  (∀ k, (State.reset.source k).state = .idle ∧ (State.reset.source k).enabled = true ∧
    (State.reset.source k).data = none ∧ (State.reset.source k).real = false ∧ (State.reset.source k).sim = false) ∧
  SourceId.all.map (fun k => ((State.reset.source k).severity, (State.reset.source k).action)) =
    [(14, .hold), (13, .hold), (8, .pause), (8, .pause), (6, .pause), (6, .pause), (5, .note), (5, .note),
     (9, .pause), (7, .note), (10, .hold), (3, .note), (3, .note), (2, .note), (4, .note), (1, .note)] ∧
  State.reset.mgmt.requests = [] ∧ State.reset.mgmt.responses = [] ∧ State.reset.mgmt.events = [] ∧
  State.reset.mgmt.dropped = false ∧ State.reset.mgmt.mode = .transparent ∧ State.reset.mgmt.supTimer = none ∧
  State.reset.mgmt.supLoss = false ∧ State.reset.mgmt.limits = none

/-! ## Requests in general -/

/-- A request is answered exactly once, with its own tag and to its own origin: one response joins those that stood in the
response queue; or, when the request performed a station reset, which empties that queue, the one response is held back.
Nothing of the request stays in the request queue. A request that is not answered DONE carries no results and changes
nothing beyond its response and the supervision restart (R160, R161, R179). Free transmitters choose at the step's end: the
model's choice (log 10); the mark of a reset taken is the model's own (log 26). -/
def Obligations.RequestsAreAnsweredOnce : Prop :=
  ∀ (i : Instr) (r : Request) (s : State), requestOf i = some r → isRunning s = true → takesAtOnce s = true →
    ∃ (o : OutcomeCode) (results : List Byte) (effect : State),
      (effect.mgmt.heldBack = none ∧ effect.mgmt.requests = []) ∧
      (effect.mgmt.resetTaken = false → effect.mgmt.responses = s.mgmt.responses ∧
        exec i s = .next (settle { effect with mgmt := { effect.mgmt with
          responses := s.mgmt.responses ++ [{ dest := r.origin, tag := r.tag, outcome := o, results }] } })) ∧
      (effect.mgmt.resetTaken = true → effect.mgmt.responses = [] ∧
        exec i s = .next (settle { effect with mgmt := { effect.mgmt with
          resetTaken := false
          heldBack := some { dest := r.origin, tag := r.tag, outcome := o, results } } })) ∧
      (o ≠ .done → results = [] ∧ (effect = beginRequest s ∨ effect = served r s))

/-- What is turned away before any owning rule: a request from an origin other than 0 and 62 is answered ORIGIN with
no other effect, not even on supervision; from origins 0 and 62 a code outside 1 to 34 is answered UNKNOWN and a
payload of fewer than two bytes INVALID, with no effect but the supervision restart (R161, R163, R197). Free
transmitters choose at the step's end: the model's choice (log 10). -/
def Obligations.TurnedAwayBeforeTheOwningRule : Prop :=
  (∀ (i : Instr) (r : Request) (s : State), requestOf i = some r → isRunning s = true → takesAtOnce s = true →
    r.origin ≠ 0 → r.origin ≠ 62 → exec i s = completes r .origin [] (beginRequest s)) ∧
  (∀ (origin : Nat) (payload : List Byte) (s : State), Admitted (payloadRequest origin payload) s →
    exec (.unknownRequest origin payload) s =
      completes (payloadRequest origin payload) (if payload.length < 2 then .invalid else .unknown) []
        (served (payloadRequest origin payload) s))

/-- A request that the part cannot take at once is placed at the tail of the request queue, or dropped when that holds
4 (R125, R160). Its payload is its code, its tag and its arguments (R197); a payload that names no request waits as it
is. -/
def Obligations.RequestsWaitInTheirQueue : Prop :=
  ∀ s : State, isRunning s = true → takesAtOnce s = false →
    (∀ (i : Instr) (n : Nat) (r : Request), codeOf i = some n → requestOf i = some r →
      exec i s = .next
        (if s.mgmt.requests.length < 4 then
          { s with mgmt := { s.mgmt with requests := s.mgmt.requests ++
              [{ source := r.origin, payload := BitVec.ofNat 8 n :: r.tag :: r.args }] } }
        else s)) ∧
    (∀ (origin : Nat) (payload : List Byte),
      exec (.unknownRequest origin payload) s = .next
        (if s.mgmt.requests.length < 4 then
          { s with mgmt := { s.mgmt with requests := s.mgmt.requests ++ [{ source := origin, payload }] } }
        else s))

/-- What a request in the request queue is served as is what its command means: taking a queue head whose payload is
code, tag and arguments of a command does what the command does (R160, R163, R197). So it does with more requests behind
the head, which is the oldest: the answer and the effect are those of the command alone, and the rest stays in its order,
unless the station was reset meanwhile, which empties the queue (R160, R180); the mark of that is the model's own (log 26).
A payload that names no request, of fewer than 2 bytes or with a code outside 1 to 34, is served as UNKNOWN_REQUEST is
(R161, R163, R197). Free transmitters choose at the step's end: the model's choice (log 10). -/
def Obligations.QueuedRequestsMeanTheSame : Prop :=
  (∀ (i : Instr) (n : Nat) (r : Request) (s : State), codeOf i = some n → requestOf i = some r →
    isRunning s = true → canTake s = true →
    s.mgmt.requests = [{ source := r.origin, payload := BitVec.ofNat 8 n :: r.tag :: r.args }] →
    .next (takeQueued s) = exec i { s with mgmt := { s.mgmt with requests := [] } }) ∧
  (∀ (i : Instr) (r : Request) (p : List Byte) (rest : List QueuedRequest) (s : State), requestOf i = some r →
    ((∃ n, codeOf i = some n ∧ p = BitVec.ofNat 8 n :: r.tag :: r.args) ∨
      (i = .unknownRequest r.origin p ∧ ∀ c tag args, p = c :: tag :: args → c.toNat = 0 ∨ 34 < c.toNat)) →
    isRunning s = true → canTake s = true →
    s.mgmt.requests = { source := r.origin, payload := p } :: rest →
    ∃ (a : Answer) (effect : State), effect.mgmt.requests = [] ∧
      exec i { s with mgmt := { s.mgmt with requests := [] } } = .next (settle (respond r.origin r.tag a effect)) ∧
      takeQueued s = settle (respond r.origin r.tag a
        { effect with mgmt := { effect.mgmt with requests := if effect.mgmt.resetTaken then [] else rest } }))

/-- A part held in reset or still loading takes no request, no frame, no line event and no timer event: its state does
not change (R135). -/
def Obligations.StillWhileTheSwitchIsClosed : Prop :=
  ∀ (c : Instr) (s : State), isRunning s = false →
    (c = .hardwareReset ∨ (∃ a b, c = .resetRelease a b) ∨ c = .storeLoadDone) ∨ exec c s = .next s

/-! ## Management unit -/

/-- IDENTIFY without arguments (with any it is INVALID) is answered DONE with the codes 4117, 80, 264 and 1, two bytes
each, the own address, the link rate and the station time, most significant byte first; it changes no state (R164,
R197). -/
def Obligations.IdentifyAnswersTheIdentity : Prop :=
  ∀ (r : Request) (s : State), Admitted r s →
    (r.args ≠ [] → exec (.identify r) s = completes r .invalid [] (served r s)) ∧
    (r.args = [] → exec (.identify r) s = completes r .done
      ([16, 21, 0, 80, 1, 8, 0, 1, BitVec.ofNat 8 s.base.ownAddr, if s.base.rate = .mbit10 then 10 else 25,
        s.base.time.extractLsb' 24 8, s.base.time.extractLsb' 16 8, s.base.time.extractLsb' 8 8,
        s.base.time.extractLsb' 0 8])
      (served r s))

/-- HEARTBEAT without arguments (with any it is INVALID) is answered DONE with time, mode, L, hold flag, event count
and dropped marker. From the tool in ACTIVE mode it restarts the supervision timer with its full duration and ends a
SUPERVISION_LOSS presence; from the interlock controller, or in TRANSPARENT mode, it leaves supervision alone; it
changes nothing else (R161 step 2, R165, R175, R176). -/
def Obligations.HeartbeatKeepsSupervision : Prop :=
  ∀ (r : Request) (s : State), Admitted r s →
    (r.args ≠ [] → exec (.heartbeat r) s = completes r .invalid [] (served r s)) ∧
    (r.args = [] → ∃ t, exec (.heartbeat r) s = completes r .done
        (word32 s.base.time ++ [if s.mgmt.mode = .active then 1 else 0, BitVec.ofNat 8 s.cu.level,
          if s.arb.hold then 1 else 0, BitVec.ofNat 8 s.mgmt.events.length, if s.mgmt.dropped then 1 else 0]) t ∧
      (r.origin = 0 → s.mgmt.mode = .active →
        t.mgmt = { s.mgmt with
          resetTaken := false, supLoss := false
          supTimer := some (s.base.time + BitVec.ofNat 32 s.lim.supervisionTimeout) } ∧
        (∀ k, k ≠ .supervisionLoss → t.source k = s.source k) ∧
        (s.mgmt.supLoss = false → t.cu = s.cu) ∧
        (s.mgmt.supLoss = true →
          t.source .supervisionLoss = withoutPresence (s.source .supervisionLoss))) ∧
      (r.origin = 62 ∨ s.mgmt.mode = .transparent → t = beginRequest s) ∧
      t.cu.level = s.cu.level ∧ t.cu.stack = s.cu.stack ∧
      keepsHeads s t ∧ keepsPad s t ∧ keepsPorts s t ∧ keepsFunctions s t ∧ keepsBase s t ∧ t.store = s.store)

/-- READ_LIMITS is answered DONE with a mark that the block is unwritten, or with the block; READ_STATE of the
sections STATION and PAD and of the SENSOR key with the contents of R166; READ_CONDITIONS with L, stack and hold flag,
or with a source; STORE_READ with a stored record or a working copy. None of them changes any state (R153, R166, R174,
R186). The codes of sections, parts and copies, and layouts beyond R197, are the model's choice (logs 14, 15). Free
transmitters choose at the step's end: the model's choice (log 10). -/
def Obligations.StateReadsChangeNothing : Prop :=
  ∀ (r : Request) (s : State), Admitted r s →
    (r.args = [] → s.mgmt.limits = none → exec (.readLimits r) s = completes r .done [0] (served r s)) ∧
    (∀ l, r.args = [] → s.mgmt.limits = some l →
      exec (.readLimits r) s = completes r .done (1 :: limitBytes l) (served r s)) ∧
    (r.args = [1] → exec (.readState r) s = completes r .done (stationSection (served r s)) (served r s)) ∧
    (r.args = [2] → exec (.readState r) s = completes r .done (padSection s) (served r s)) ∧
    (r.args = [3, 22] →
      exec (.readState r) s = completes r .done
        (match s.fmap.sensor with
          | none => [0]
          | some c => [1, BitVec.ofNat 8 c.node, BitVec.ofNat 8 c.channel]) (served r s)) ∧
    (r.args = [1] →
      exec (.readConditions r) s = completes r .done
        (BitVec.ofNat 8 s.cu.level :: BitVec.ofNat 8 s.cu.stack.length :: s.cu.stack.map (BitVec.ofNat 8) ++
          [if s.arb.hold then 1 else 0]) (served r s)) ∧
    (∀ k, r.args = [2, BitVec.ofNat 8 (sourceNumber k)] →
      exec (.readConditions r) s =
        completes r .done (sourceBytes k ((served r s).source k)) (served r s)) ∧
    (∀ x, r.args = [BitVec.ofNat 8 (recordCode x), 1] →
      exec (.storeRead r) s = completes r .done (storedBytes s.store x) (served r s)) ∧
    (∀ x, r.args = [BitVec.ofNat 8 (recordCode x), 2] →
      exec (.storeRead r) s = completes r .done (workingBytes s.store x) (served r s))

/-- READ_STATE clears the clamped flags that it reports as set, and nothing else: a FUNCTION section its function's
flag, a CLAMPED section every flag; a flag that is clear stays clear (R167). The codes of the sections, and layouts
beyond R197, are the model's choice (logs 14, 15). Free transmitters choose at the step's end: the model's choice (log
10). -/
def Obligations.ReadStateClearsClampedFlags : Prop :=
  ∀ (r : Request) (s : State), Admitted r s →
    (∀ f, r.args = [3, BitVec.ofNat 8 (fnCode f)] → ∃ t,
      exec (.readState r) s = completes r .done (functionSection s f) t ∧
      t.fn f = { s.fn f with clamped := false } ∧ (∀ g, g ≠ f → t.fn g = s.fn g) ∧
      t.fmap.sensor = s.fmap.sensor ∧ t.slots = s.slots ∧
      keepsHeads s t ∧ keepsPad s t ∧ keepsPorts s t ∧ keepsBase s t ∧ t.store = s.store ∧
      t.mgmt = (served r s).mgmt ∧ t.cu = (served r s).cu) ∧
    (r.args = [4] → ∃ t,
      exec (.readState r) s = completes r .done (fnSet (PerFn.tabulate fun f => (s.fn f).clamped)) t ∧
      (∀ g, t.fn g = { s.fn g with clamped := false }) ∧
      t.fmap.sensor = s.fmap.sensor ∧ t.slots = s.slots ∧
      keepsHeads s t ∧ keepsPad s t ∧ keepsPorts s t ∧ keepsBase s t ∧ t.store = s.store ∧
      t.mgmt = (served r s).mgmt ∧ t.cu = (served r s).cu)

/-- SET_MODE. To ACTIVE, of a TRANSPARENT station: refused NOT_READY while the limit block is unwritten; else the mode
becomes ACTIVE, the supervision timer starts, and the hold values are written when station hold is on. To TRANSPARENT,
of an ACTIVE station: refused STATE while a head works or station hold is on; else slots empty, echo counts 0,
deviation states IN_BAND, the presence of each group with a DEVIATED function lost, supervision stopped and its presence
lost, while assignments, statuses, ready flags, last transmitted values, clamped flags, L and the stack are kept. Both
queue MODE_CHANGED. To the mode that is set: DONE with no effect; to another mode: INVALID (R115, R116, R169, R170, R171).
Free transmitters choose at the step's end: the model's choice (log 10). -/
def Obligations.SetModeChangesTheMode : Prop :=
  ∀ (r : Request) (s : State), Admitted r s →
    (∀ b, r.args = [b] → b ≠ 0 → b ≠ 1 → exec (.setMode r) s = completes r .invalid [] (served r s)) ∧
    (r.args = [1] → s.mgmt.mode = .active → exec (.setMode r) s = completes r .done [] (served r s)) ∧
    (r.args = [0] → s.mgmt.mode = .transparent → exec (.setMode r) s = completes r .done [] (served r s)) ∧
    (r.args = [1] → s.mgmt.mode = .transparent → s.mgmt.limits = none →
      exec (.setMode r) s = completes r .notReady [] (served r s)) ∧
    (∀ l : LimitBlock, r.args = [1] → s.mgmt.mode = .transparent → s.mgmt.limits = some l →
      exec (.setMode r) s = completes r .done []
        (queueEvent .modeChanged none [1, BitVec.ofNat 32 r.origin]
          (if s.arb.hold then
            writeHoldValues { s with mgmt := { s.mgmt with
              resetTaken := false, mode := .active
              supTimer := some (s.base.time + BitVec.ofNat 32 l.supervisionTimeout) } }
          else
            { s with mgmt := { s.mgmt with
              resetTaken := false, mode := .active
              supTimer := some (s.base.time + BitVec.ofNat 32 l.supervisionTimeout) } }))) ∧
    (r.args = [0] → s.mgmt.mode = .active → anyHeadWorking s = true ∨ s.arb.hold = true →
      exec (.setMode r) s = completes r .state [] (served r s)) ∧
    (r.args = [0] → s.mgmt.mode = .active → anyHeadWorking s = false → s.arb.hold = false →
      ∃ t, exec (.setMode r) s =
          completes r .done [] (queueEvent .modeChanged none [0, BitVec.ofNat 32 r.origin] t) ∧
        t.mgmt = { s.mgmt with resetTaken := false, mode := .transparent, supTimer := none, supLoss := false } ∧
        (∀ f, t.slots.get f = none) ∧ (∀ f, t.fn f = { s.fn f with echo := 0, dev := .inBand }) ∧
        t.fmap.sensor = s.fmap.sensor ∧ t.cu.level = s.cu.level ∧ t.cu.stack = s.cu.stack ∧
        (s.mgmt.supLoss = true → t.source .supervisionLoss = withoutPresence (s.source .supervisionLoss)) ∧
        (s.mgmt.supLoss = false → t.source .supervisionLoss = s.source .supervisionLoss) ∧
        (∀ k ∈ [SourceId.pressureDevA, .pressureDevB, .flowDev],
          ((∃ f, deviationSource f = some k ∧ (s.fn f).dev = .deviated) →
            t.source k = withoutPresence (s.source k)) ∧
          ((∀ f, deviationSource f = some k → (s.fn f).dev ≠ .deviated) → t.source k = s.source k)) ∧
        (∀ k, k ∉ [.supervisionLoss, .pressureDevA, .pressureDevB, .flowDev] → t.source k = s.source k) ∧
        keepsHeads s t ∧ keepsPad s t ∧ keepsPorts s t ∧ keepsBase s t ∧ t.store = s.store)

/-- WRITE_LIMITS: refused ORIGIN from the tool, SEQUENCE when the block is written, INVALID when a field breaks R172;
else the block is written and wear presence evaluated against it, as ReplacingAConsumable says of evaluateWear (R173,
R96). Free transmitters choose at the step's end: the model's choice (log 10). -/
def Obligations.LimitsAreWrittenOnce : Prop :=
  ∀ (r : Request) (s : State) (l : LimitBlock), Admitted r s → wholeWalk limitsArgs r.args = some l →
    (r.origin = 0 → exec (.writeLimits r) s = completes r .origin [] (served r s)) ∧
    (r.origin = 62 → s.mgmt.limits ≠ none → exec (.writeLimits r) s = completes r .sequence [] (beginRequest s)) ∧
    (r.origin = 62 → s.mgmt.limits = none → limitsOk l = false →
      exec (.writeLimits r) s = completes r .invalid [] (beginRequest s)) ∧
    (r.origin = 62 → s.mgmt.limits = none → limitsOk l = true →
      exec (.writeLimits r) s = .next (settle (respond r.origin r.tag { outcome := .done, results := [] }
        (evaluateWear { s with mgmt := { s.mgmt with resetTaken := false, limits := some l } }))))

/-- Once written, the limit block keeps its contents until the next hardware reset: through every command, and through every
step, also one that takes a waiting request, an expiry or a tick by itself (R172). -/
def Obligations.LimitBlockStaysLocked : Prop :=
  (∀ (c : Instr) (s t : State) (l : LimitBlock), s.mgmt.limits = some l → exec c s = .next t →
    t.mgmt.limits = some l ∨ c = .hardwareReset) ∧
  (∀ (s t : State) (l : LimitBlock), s.mgmt.limits = some l → step s = .next t →
    t.mgmt.limits = some l ∨ ∃ rest, s.pending = .hardwareReset :: rest)

/-! ## Function map and setpoints -/

/-- MAP_FUNCTION, check by check: INVALID for a key that is none of the 22, a node outside 1 to 61, a channel above 7 or the
part's own address; STATE for a function under part authority; INVALID for a node channel that another key holds; DONE
with no effect when the key holds that assignment already. Else a function takes the assignment: its last status, ready
flag, last transmitted value and echo count are reset, its deviation state becomes IN_BAND, and when it was the last
DEVIATED one of its group the group's presence is lost; its clamped flag, its slot and every other function are kept. Else
SENSOR takes it, and the open sweeps of both heads are discarded (R48, R101, R102, R115). Free transmitters choose at the
step's end: the model's choice (log 10). -/
def Obligations.MapFunctionReassigns : Prop :=
  ∀ (r : Request) (s : State) (key : Nat) (ch : Option NodeChannel), Admitted r s →
    wholeWalk mapArgs r.args = some { key, channel := ch } →
    (¬(1 ≤ key ∧ key ≤ 22) → exec (.mapFunction r) s = completes r .invalid [] (served r s)) ∧
    (∀ c, ch = some c → ¬(1 ≤ c.node ∧ c.node ≤ 61 ∧ c.channel ≤ 7 ∧ c.node ≠ s.base.ownAddr) →
      exec (.mapFunction r) s = completes r .invalid [] (served r s)) ∧
    ((∀ c, ch = some c → 1 ≤ c.node ∧ c.node ≤ 61 ∧ c.channel ≤ 7 ∧ c.node ≠ s.base.ownAddr) →
      (∀ f, key = fnCode f →
        (partAuthority s f = true → exec (.mapFunction r) s = completes r .state [] (served r s)) ∧
        (partAuthority s f = false →
          (∀ c, ch = some c → (s.fmap.sensor = some c ∨ ∃ g, g ≠ f ∧ (s.fn g).assign = some c) →
            exec (.mapFunction r) s = completes r .invalid [] (served r s)) ∧
          ((∀ c, ch = some c → s.fmap.sensor ≠ some c ∧ ∀ g, g ≠ f → (s.fn g).assign ≠ some c) →
            ((s.fn f).assign = ch → exec (.mapFunction r) s = completes r .done [] (served r s)) ∧
            ((s.fn f).assign ≠ ch →
              ∃ t, exec (.mapFunction r) s = completes r .done [] t ∧
                t.fn f = { s.fn f with
                  assign := ch, status := none, ready := false, lastTx := none, echo := 0, dev := .inBand } ∧
                (∀ g, g ≠ f → t.fn g = s.fn g) ∧ t.fmap.sensor = s.fmap.sensor ∧ t.slots = s.slots ∧
                (∀ k, (deviationSource f = some k ∧ (s.fn f).dev = .deviated ∧
                    ∀ g, g ≠ f → deviationSource g = some k → (s.fn g).dev ≠ .deviated) →
                  t.source k = withoutPresence ((served r s).source k)) ∧
                (∀ k, ¬(deviationSource f = some k ∧ (s.fn f).dev = .deviated ∧
                    ∀ g, g ≠ f → deviationSource g = some k → (s.fn g).dev ≠ .deviated) →
                  t.source k = (served r s).source k) ∧
                t.mgmt = (served r s).mgmt ∧ t.cu.level = s.cu.level ∧ t.cu.stack = s.cu.stack ∧
                keepsHeads s t ∧ keepsPad s t ∧ keepsPorts s t ∧ keepsBase s t ∧ t.store = s.store)))) ∧
      (key = 22 →
        (∀ c f, ch = some c → (s.fn f).assign = some c →
          exec (.mapFunction r) s = completes r .invalid [] (served r s)) ∧
        ((∀ c f, ch = some c → (s.fn f).assign ≠ some c) →
          (s.fmap.sensor = ch → exec (.mapFunction r) s = completes r .done [] (served r s)) ∧
          (s.fmap.sensor ≠ ch → ∃ t, exec (.mapFunction r) s = completes r .done [] t ∧
            t.fmap = { s.fmap with sensor := ch } ∧
            (∀ h, t.sampler h = { s.sampler h with openSweep := none }) ∧
            { t with fmap := s.fmap, samplers := s.samplers } = served r s))))

/-- Tool setpoints judged as they leave the downbound queue. A record whose channel no function holds is kept, and so is
every record in TRANSPARENT mode; in ACTIVE mode a record of a function under part authority is removed, and one under tool
authority leaves with its function value clamped to the nearer of the limit bounds it passed and carried back over the
offset, clamped to 0 to 65,535, and marks its function exactly when that changed it. A frame of another kind, or for no
node, passes unchanged; a malformed one does unless the station is ACTIVE and some key holds a node channel there, when it
is not sent. A frame left with no record is not sent, an untouched one is sent as it was, any other is rebuilt of what is
kept, under its own header. A frame that is sent leaves, for each function its records name, the last such record as last
transmitted values and an echo count of 0; nothing but these and the clamped flags changes (R104, R105, R106, R107). -/
def Obligations.ToolRecordsAreRemovedOrClamped : Prop :=
  (∀ (s : State) (node : Nat) (r : SetpointRecord),
    (7 < r.channel.toNat ∨ (∀ f, (s.fn f).assign ≠ some { node, channel := r.channel.toNat }) →
      judgeRecord s node r = (some r, none)) ∧
    (s.mgmt.mode = .transparent → judgeRecord s node r = (some r, none))) ∧
  (∀ (s : State) (node : Nat) (r : SetpointRecord) (f : Fn), s.mgmt.mode = .active → ChannelsDistinct s →
    r.channel.toNat ≤ 7 → (s.fn f).assign = some { node, channel := r.channel.toNat } →
    (partAuthority s f = true → judgeRecord s node r = (none, none)) ∧
    (partAuthority s f = false → (limitBounds s.lim f).lo ≤ (limitBounds s.lim f).hi →
      ∃ (n : Nat) (m : Option Fn), judgeRecord s node r = (some { r with value := n }, m) ∧
        (n : Int) = max 0 (min 65535
          (max ((limitBounds s.lim f).lo : Int) (min ((limitBounds s.lim f).hi : Int) ((r.value : Int) - s.offset f)) +
            s.offset f)) ∧
        (n = r.value → m = none) ∧ (n ≠ r.value → m = some f))) ∧
  (∀ (s : State) (frame : List Byte),
    (frameKind frame ≠ 1 ∨ ¬(1 ≤ frameDest frame ∧ frameDest frame ≤ 61) → judgeFrame frame s = (some frame, s)) ∧
    (frameKind frame = 1 → 1 ≤ frameDest frame → frameDest frame ≤ 61 →
      ((¬∃ c rest, framePayload frame = c :: rest ∧ 1 ≤ c.toNat ∧ c.toNat ≤ 8 ∧ rest.length = 3 * c.toNat) →
        ((s.mgmt.mode = .active ∧ ((∃ f c, (s.fn f).assign = some c ∧ c.node = frameDest frame) ∨
            ∃ c, s.fmap.sensor = some c ∧ c.node = frameDest frame)) → judgeFrame frame s = (none, s)) ∧
        (¬(s.mgmt.mode = .active ∧ ((∃ f c, (s.fn f).assign = some c ∧ c.node = frameDest frame) ∨
            ∃ c, s.fmap.sensor = some c ∧ c.node = frameDest frame)) → judgeFrame frame s = (some frame, s))) ∧
      (∀ c rest, framePayload frame = c :: rest → 1 ≤ c.toNat → c.toNat ≤ 8 → rest.length = 3 * c.toNat →
        ∃ (judged : List (Option SetpointRecord × Option Fn)) (kept : List SetpointRecord) (t : State),
          judged = (setpointRecords rest).map (judgeRecord s (frameDest frame)) ∧ kept = judged.filterMap Prod.fst ∧
          judgeFrame frame s =
            (if kept = [] then none
              else if kept = setpointRecords rest then some frame
              else some (sealFrame (frameByte frame 0) (frameByte frame 1) (frameByte frame 2) (setpointPayload kept)),
             t) ∧
          (∀ f, (t.fn f).clamped = true ↔ (s.fn f).clamped = true ∨ some f ∈ judged.map Prod.snd) ∧
          (∀ f pre x post, kept = pre ++ x :: post → fnAt s (frameDest frame) x.channel.toNat = some f →
            (∀ y ∈ post, fnAt s (frameDest frame) y.channel.toNat ≠ some f) →
            (t.fn f).lastTx = some { node := x.value, value := (x.value : Int) - s.offset f } ∧ (t.fn f).echo = 0) ∧
          (∀ f, (∀ y ∈ kept, fnAt s (frameDest frame) y.channel.toNat ≠ some f) →
            (t.fn f).lastTx = (s.fn f).lastTx ∧ (t.fn f).echo = (s.fn f).echo) ∧
          (∀ f, ∃ tx e b, t.fn f = { s.fn f with lastTx := tx, echo := e, clamped := b }) ∧
          t.fmap.sensor = s.fmap.sensor ∧ { t with fmap := s.fmap } = s)))

/-- A slot write: not taken in TRANSPARENT mode; in ACTIVE mode the slot holds the new value, with the present time
when it was empty and with its original write time when it was pending; no other slot and no other part of the state
changes (R108). -/
def Obligations.SlotWritesKeepTheFirstTime : Prop :=
  ∀ (f : Fn) (v : Nat) (s : State),
    (s.mgmt.mode = .transparent → writeSlot f v s = s) ∧
    (s.mgmt.mode = .active →
      ((writeSlot f v s).slots.get f = some { value := v, written := ((s.slots.get f).map Slot.written).getD s.base.time }) ∧
      (∀ g, g ≠ f → (writeSlot f v s).slots.get g = s.slots.get g) ∧
      { writeSlot f v s with slots := s.slots } = s)

/-- A part SETPOINT frame goes to the node of the oldest eligible slot, the first of equals in the order of the functions.
It carries one record for every eligible slot mapped to that node and no other, in increasing channel number, each with the
slot's value over its offset, clamped to 0 to 65,535; it empties exactly these slots, whose values become the last
transmitted values with an echo count of 0; nothing else changes (R109, R110). A free Port D transmitter sends it when a
slot is eligible and no frame waits downbound or the last class sent was FORWARD. It serves the oldest downbound frame when
no slot is eligible or the last class sent was OWN: it sends the frame as judged, or, when the judged frame is not sent,
chooses again with its last class as it was. With nothing waiting, and while it is busy, it sends nothing (R129, R130). -/
def Obligations.SetpointFrameEmptiesItsSlots : Prop :=
  (∀ (s t : State) (frame : List Byte), setpointFrame s = some (frame, t) → ChannelsDistinct s →
    ∃ (f : Fn) (ch : NodeChannel) (records : List SetpointRecord), slotEligible s f = true ∧
      (s.fn f).assign = some ch ∧
      (∀ g, slotEligible s g = true →
        slotAge s g ≤ slotAge s f ∧ (slotAge s g = slotAge s f → fnCode f ≤ fnCode g)) ∧
      frame = ownFrame ch.node s.base.ownAddr 1 (setpointPayload records) ∧
      (records.map fun x => x.channel.toNat).Pairwise (· < ·) ∧
      (∀ x : SetpointRecord, x ∈ records ↔ x.channel.toNat ≤ 7 ∧ ∃ g v, slotEligible s g = true ∧
        (s.fn g).assign = some { node := ch.node, channel := x.channel.toNat } ∧ s.slots.get g = some v ∧
        (x.value : Int) = max 0 (min 65535 ((v.value : Int) + s.offset g))) ∧
      (∀ g, (slotEligible s g = true ∧ ∃ c, c ≤ 7 ∧ (s.fn g).assign = some { node := ch.node, channel := c }) →
        t.slots.get g = none ∧ ∃ v n, s.slots.get g = some v ∧
          (n : Int) = max 0 (min 65535 ((v.value : Int) + s.offset g)) ∧
          t.fn g = { s.fn g with lastTx := some { node := n.toNat, value := v.value }, echo := 0 }) ∧
      (∀ g, ¬ (slotEligible s g = true ∧ ∃ c, c ≤ 7 ∧ (s.fn g).assign = some { node := ch.node, channel := c }) →
        t.slots.get g = s.slots.get g ∧ t.fn g = s.fn g) ∧
      { t with slots := s.slots, fmap := s.fmap } = s ∧ t.fmap.sensor = s.fmap.sensor) ∧
  (∀ s : State,
    (s.portD.tx = .free →
      (eligibleSlots s ≠ [] → (s.fwd.down = [] ∨ s.portD.last = .forward) →
        ∃ frame t, setpointFrame s = some (frame, t) ∧
          (settle s).portD = { s.portD with tx := .busy frame, last := .own } ∧
          (settle s).slots = t.slots ∧ (settle s).fmap = t.fmap ∧ (settle s).fwd.down = s.fwd.down) ∧
      (∀ frame rest, s.fwd.down = frame :: rest → (eligibleSlots s = [] ∨ s.portD.last = .own) →
        (∀ sent t, judgeFrame frame { s with fwd := { s.fwd with down := rest } } = (some sent, t) →
          (settle s).portD = { s.portD with tx := .busy sent, last := .forward } ∧
          (settle s).fwd.down = rest ∧ (settle s).slots = s.slots ∧ (settle s).fmap = t.fmap) ∧
        (∀ t, judgeFrame frame { s with fwd := { s.fwd with down := rest } } = (none, t) →
          t.portD = s.portD ∧ t.fwd.down = rest ∧ settle s = settle t)) ∧
      (eligibleSlots s = [] → s.fwd.down = [] →
        (settle s).portD = s.portD ∧ (settle s).slots = s.slots ∧ (settle s).fmap = s.fmap)) ∧
    (s.portD.tx ≠ .free → (settle s).portD = s.portD ∧ (settle s).fwd.down = s.fwd.down ∧
      (settle s).slots = s.slots ∧ (settle s).fmap = s.fmap))

/-- No two keys of the function map hold the same node channel: every step keeps it (R100, R101). -/
def Obligations.StepKeepsChannelsDistinct : Prop :=
  ∀ s t : State, ChannelsDistinct s → step s = .next t → ChannelsDistinct t

/-! ## Ports and forwarding -/

/-- A frame collected on Port U: a good one clears the streak and moves the link state, and is then sorted: a REQUEST
for the part goes to the request queue when that has room, any other frame for the part is dropped, every other frame
goes to the downbound queue when that has room; one that overflows it raises FORWARD_OVERFLOW; a bad one raises the
streak and goes nowhere (R120, R122, R124, R125, R127, R128). Free transmitters choose at the step's end: the model's
choice (log 10). -/
def Obligations.PortUSortsFrames : Prop :=
  ∀ (bytes : List Byte) (s : State), isRunning s = true →
    (frameGood bytes = false →
      exec (.portUReceive bytes) s = .next (settle { s with portU := portBad s.portU })) ∧
    (frameGood bytes = true → frameDest bytes = s.base.ownAddr → frameKind bytes = 4 → s.mgmt.requests.length < 4 →
      exec (.portUReceive bytes) s = .next (settle { s with
        portU := portGood s.portU
        mgmt := { s.mgmt with requests := s.mgmt.requests ++
          [{ source := frameSource bytes, payload := framePayload bytes }] } })) ∧
    (frameGood bytes = true → frameDest bytes = s.base.ownAddr →
      (frameKind bytes ≠ 4 ∨ 4 ≤ s.mgmt.requests.length) →
      exec (.portUReceive bytes) s = .next (settle { s with portU := portGood s.portU })) ∧
    (frameGood bytes = true → frameDest bytes ≠ s.base.ownAddr → s.fwd.down.length < 8 →
      exec (.portUReceive bytes) s = .next (settle { s with
        portU := portGood s.portU, fwd := { s.fwd with down := s.fwd.down ++ [bytes] } })) ∧
    (frameGood bytes = true → frameDest bytes ≠ s.base.ownAddr → 8 ≤ s.fwd.down.length →
      exec (.portUReceive bytes) s =
        .next (settle (occurrence .forwardOverflow (.queue .downbound) { s with portU := portGood s.portU })))

/-- A frame collected on Port D first moves the port by R122: the fourth consecutive bad one takes an ONLINE port OFFLINE and
the beginning of PORT_D_LOSS presence is reported, the second consecutive good one brings it back ONLINE and its loss is
reported, and any other frame moves the port alone (R122, R123). A bad frame does nothing else; a good one is copied (SAMPLE to the sample unit,
STATUS to the function map, no other kind) and appended to the upbound queue, whatever its destination, or with that queue
full dropped with FORWARD_OVERFLOW naming UPBOUND, while the copy stands; which of the two comes first is free (log 13). A
SAMPLE frame of the sensor node gives its records in order: FIRST opens a fresh sweep in place of an open one, MID and LAST
act on an open sweep alone, a value that is not discarded is added to its zone unless the count stands at 65,535, LAST closes
the sweep into a record with the next number, numbered 1 over an emptied history past 4,294,967,295, a zone present with its
truncated mean from the minimum samples on, appended to a history of the newest 8 and handed to the sequencer. A STATUS
frame's records in order: each mapped one is stored with its ready flag; in ACTIVE mode the echo check counts a ready
disagreement with the last transmitted value and raises SETPOINT_MISMATCH at the second, and the deviation monitor starts
the dwell or brings the function IN_BAND; an ARM record that is ready within tolerance ends TRAVEL (R30, R32, R33, R40, R41,
R44, R46, R91, R111, R113, R114, R115, R120, R126, R128). Free transmitters choose at the step's end: the model's choice (log
10). -/
def Obligations.PortDCopiesAndForwards : Prop :=
  (∀ s : State,
    (s.portD.link = .online →
      (s.portD.streak = 3 → movePortD (portBad s.portD) s =
        beginPresence .portDLoss none { s with portD := { s.portD with streak := 4, link := .offline 0 } }) ∧
      (s.portD.streak < 3 → movePortD (portBad s.portD) s =
        { s with portD := { s.portD with streak := s.portD.streak + 1 } }) ∧
      movePortD (portGood s.portD) s = { s with portD := { s.portD with streak := 0 } }) ∧
    (∀ n, s.portD.link = .offline n → movePortD (portBad s.portD) s =
      { s with portD := { s.portD with streak := min (s.portD.streak + 1) 4, link := .offline 0 } }) ∧
    (s.portD.link = .offline 0 → movePortD (portGood s.portD) s =
      { s with portD := { s.portD with streak := 0, link := .offline 1 } }) ∧
    (s.portD.link = .offline 1 → movePortD (portGood s.portD) s =
      { s with portD := { s.portD with streak := 0, link := .online } }.setSource .portDLoss
        (withoutPresence (s.source .portDLoss)))) ∧
  (∀ (bytes : List Byte) (s : State), isRunning s = true →
    (frameGood bytes = false →
      exec (.portDReceive bytes) s = .next (settle (movePortD (portBad s.portD) s))) ∧
    (frameGood bytes = true → s.fwd.up.length < 16 →
      ∃ t, exec (.portDReceive bytes) s = .next (settle { t with fwd := { t.fwd with up := t.fwd.up ++ [bytes] } }) ∧
        (frameKind bytes = 3 → t = takeSamples bytes (movePortD (portGood s.portD) s)) ∧
        (frameKind bytes = 2 → t = takeStatuses bytes (movePortD (portGood s.portD) s)) ∧
        (frameKind bytes ≠ 2 → frameKind bytes ≠ 3 → t = movePortD (portGood s.portD) s)) ∧
    (frameGood bytes = true → 16 ≤ s.fwd.up.length → ∀ (copy : State → State) (u : State),
      (frameKind bytes = 3 → copy = takeSamples bytes) → (frameKind bytes = 2 → copy = takeStatuses bytes) →
      (frameKind bytes ≠ 2 → frameKind bytes ≠ 3 → copy = id) →
      u = (movePortD (portGood s.portD) s).choicesTaken 1 →
      exec (.portDReceive bytes) s = .next (settle (copy (occurrence .forwardOverflow (.queue .upbound) u))) ∨
      exec (.portDReceive bytes) s = .next (settle
        (if (copy u).fwd.up.length < 16 then
          { copy u with fwd := { (copy u).fwd with up := (copy u).fwd.up ++ [bytes] } }
        else occurrence .forwardOverflow (.queue .upbound) (copy u))))) ∧
  (∀ (frame : List Byte) (s : State),
    (s.fmap.sensor.map NodeChannel.node ≠ some (frameSource frame) → takeSamples frame s = s) ∧
    ((¬∃ c rest, framePayload frame = c :: rest ∧ 1 ≤ c.toNat ∧ c.toNat ≤ 8 ∧ rest.length = 6 * c.toNat) →
      takeSamples frame s = s ∧ takeStatuses frame s = s) ∧
    (∀ c rest, framePayload frame = c :: rest → 1 ≤ c.toNat → c.toNat ≤ 8 → rest.length = 6 * c.toNat →
      (s.fmap.sensor.map NodeChannel.node = some (frameSource frame) →
        takeSamples frame s = (sampleRecords rest).foldl takeSample s) ∧
      takeStatuses frame s = (statusRecords rest).foldl (takeStatus (frameSource frame)) s)) ∧
  (∀ (s : State) (r : SampleRecord),
    ((r.head ≠ 1 ∧ r.head ≠ 2) ∨ r.position = 0 ∨ 3 < r.position → takeSample s r = s) ∧
    ∀ h, r.head = headCode h →
      ((s.sampler h).zoneMap = none → takeSample s r = s) ∧
      ∀ map value, (s.sampler h).zoneMap = some map →
        ((s.store.cal = none ∨ 600 ≤ r.radius ∨ map[r.radius / 10]? = some none) → value = none) →
        (∀ points z, s.store.cal = some points → r.radius < 600 → map[r.radius / 10]? = some (some z) →
          value = some (z, convertRaw points r.raw)) → map.length = 60 →
        (r.position = 1 → takeSample s r = s.setSampler h { s.sampler h with
          openSweep := some (accumulate (PerZone.fill { sum := 0, count := 0 }) value) }) ∧
        (r.position ≠ 1 → (s.sampler h).openSweep = none → takeSample s r = s) ∧
        (∀ sweep, (s.sampler h).openSweep = some sweep →
          (r.position = 2 → takeSample s r = s.setSampler h { s.sampler h with
            openSweep := some (accumulate sweep value) }) ∧
          (r.position = 3 → takeSample s r = closeSweep h (accumulate sweep value) s))) ∧
  (∀ sweep : PerZone ZoneSum, accumulate sweep none = sweep ∧
    ∀ z thick, (accumulate sweep (some (z, thick))).get z =
        (if (sweep.get z).count < 65535 then
          { sum := (sweep.get z).sum + thick, count := (sweep.get z).count + 1 } else sweep.get z) ∧
      ∀ y, y ≠ z → (accumulate sweep (some (z, thick))).get y = sweep.get y) ∧
  (∀ (s : State) (h : Head) (sweep : PerZone ZoneSum) (m : Nat), 1 ≤ m →
    (((s.seq h).state ∈ [HeadState.polishing, .paused] ∧ (s.currentStep h).map StepRecord.minSamples = some m) ∨
      ((s.seq h).state ∉ [HeadState.polishing, .paused] ∧ m = 3)) →
    ∃ n : SweepRecord, n.number = (if (s.sampler h).counter = 4294967295 then 1 else (s.sampler h).counter + 1) ∧
      n.closed = s.base.time ∧
      (∀ z, n.zones.get z = if m ≤ (sweep.get z).count then
        some { mean := (sweep.get z).sum / (sweep.get z).count, count := (sweep.get z).count } else none) ∧
      closeSweep h sweep s = handClose h n (s.setSampler h { s.sampler h with
        openSweep := none, counter := n.number
        history := if (s.sampler h).counter = 4294967295 then [n]
          else if (s.sampler h).history.length < 8 then (s.sampler h).history ++ [n]
          else (s.sampler h).history.drop 1 ++ [n] })) ∧
  (∀ (s : State) (node : Nat) (r : StatusRecord),
    (7 < r.channel ∨ (∀ f, (s.fn f).assign ≠ some { node, channel := r.channel }) → takeStatus node s r = s) ∧
    (∀ f, ChannelsDistinct s → r.channel ≤ 7 → (s.fn f).assign = some { node, channel := r.channel } →
      ∃ t u v, t = s.setFn f { s.fn f with status := some r.status, ready := r.status.ready } ∧
        u = (if t.mgmt.mode = .active then echoCheck f r.status t else t) ∧
        v = (if u.mgmt.mode = .active ∧ f ≠ .arm ∧ f ≠ .force ∧ f ≠ .disk then monitorDeviation f r.status u else u) ∧
        takeStatus node s r = if f = .arm then armStatus r.status v else v)) ∧
  (∀ (s : State) (f : Fn) (x : NodeStatus),
    ((s.fn f).lastTx = none ∨ x.ready = false → echoCheck f x s = s) ∧
    (∀ l, (s.fn f).lastTx = some l → x.ready = true →
      (x.applied = l.node → echoCheck f x s = s.setFn f { s.fn f with echo := 0 }) ∧
      (x.applied ≠ l.node → (s.fn f).echo = 0 → echoCheck f x s = s.setFn f { s.fn f with echo := 1 }) ∧
      (x.applied ≠ l.node → 1 ≤ (s.fn f).echo → echoCheck f x s =
        occurrence .setpointMismatch (.mismatch f x.applied l.node) (s.setFn f { s.fn f with echo := 0 })))) ∧
  (∀ (s : State) (f : Fn) (x : NodeStatus) (band dwell : Nat) (out : Prop),
    ((∃ h a, f = .head h a) → band = s.lim.pressureBand ∧ dwell = s.lim.pressureDwell) →
    (f ∈ [Fn.dose1, .dose2, .dose3, .rinse] → band = s.lim.flowBand ∧ dwell = s.lim.flowDwell) →
    f ∉ [Fn.arm, .force, .disk] →
    (out ↔ ∃ l, (s.fn f).lastTx = some l ∧ (band : Int) < |(x.measured : Int) - s.offset f - l.value|) →
    (out → (s.fn f).dev = .inBand → monitorDeviation f x s =
      s.setFn f { s.fn f with dev := .dwell (s.base.time + BitVec.ofNat 32 dwell) }) ∧
    (out → (s.fn f).dev ≠ .inBand → monitorDeviation f x s = s) ∧
    (¬out → (s.fn f).dev = .inBand → monitorDeviation f x s = s) ∧
    (∀ k, ¬out → (s.fn f).dev ≠ .inBand → deviationSource f = some k →
      ((s.fn f).dev = .deviated → (∀ g, g ≠ f → deviationSource g = some k → (s.fn g).dev ≠ .deviated) →
        monitorDeviation f x s =
          (s.setFn f { s.fn f with dev := .inBand }).setSource k (withoutPresence (s.source k))) ∧
      (¬((s.fn f).dev = .deviated ∧ ∀ g, g ≠ f → deviationSource g = some k → (s.fn g).dev ≠ .deviated) →
        monitorDeviation f x s = s.setFn f { s.fn f with dev := .inBand }))) ∧
  (∀ (s : State) (x : NodeStatus),
    ((∀ run d, s.cdr.run = some run → run.phase ≠ .travel d) → armStatus x s = s) ∧
    (∀ run d, s.cdr.run = some run → run.phase = .travel d →
      (x.ready = false ∨ (s.lim.armTolerance : Int) < |(x.measured : Int) - s.offset .arm - run.target| →
        armStatus x s = s) ∧
      (∀ p seg, x.ready = true → |(x.measured : Int) - s.offset .arm - run.target| ≤ s.lim.armTolerance →
        tableGet s.cdr.programs run.program = some p → 1 ≤ run.segment → p.segments[run.segment - 1]? = some seg →
        armStatus x s = { s with cdr := { s.cdr with
          run := some { run with phase := .dwell (s.base.time + BitVec.ofNat 32 seg.dwell) } } })))

/-- The table of R122: how a discarded frame, a good frame and a line loss move link state, error streak and recovery
count of a port, and that they move nothing else of it. -/
def Obligations.LinkStateTable : Prop :=
  ∀ p : PortState,
    (p.link = .online → p.streak + 1 < 4 → portBad p = { p with streak := p.streak + 1 }) ∧
    (p.link = .online → p.streak + 1 = 4 → portBad p = { p with streak := 4, link := .offline 0 }) ∧
    (p.link = .online → portGood p = { p with streak := 0 }) ∧
    (portLoss p = { p with link := .offline 0 }) ∧
    (∀ n, p.link = .offline n → portBad p = { p with streak := min (p.streak + 1) 4, link := .offline 0 }) ∧
    (p.link = .offline 0 → portGood p = { p with streak := 0, link := .offline 1 }) ∧
    (p.link = .offline 1 → portGood p = { p with streak := 0, link := .online })

/-- The end of a transmission frees its transmitter, which then chooses again. Line loss puts a port OFFLINE with
recovery count 0 and leaves its streak; Port U raises no condition; Port D reports the beginning of PORT_D_LOSS
presence when it was ONLINE, and nothing when it was OFFLINE (R121, R122, R123, R129). Free transmitters choose at the
step's end: the model's choice (log 10). -/
def Obligations.LineLossAndTransmitEnd : Prop :=
  ∀ s : State, isRunning s = true →
    exec (.transmitEnd .u) s = .next (settle { s with portU := { s.portU with tx := .free } }) ∧
    exec (.transmitEnd .d) s = .next (settle { s with portD := { s.portD with tx := .free } }) ∧
    exec (.lineLoss .u) s = .next (settle { s with portU := { s.portU with link := .offline 0 } }) ∧
    (s.portD.link ≠ .online →
      exec (.lineLoss .d) s = .next (settle { s with portD := { s.portD with link := .offline 0 } })) ∧
    (s.portD.link = .online →
      exec (.lineLoss .d) s = .next (settle (beginPresence .portDLoss none
        { s with portD := { s.portD with link := .offline 0 } })))

/-- The transmitters' choice moves only traffic: it changes the two transmitters and their last class, the forward
queues, the slots, the last transmitted values, echo counts and clamped flags, and the queues of the management unit
that it drains; everything else is as it was, and with both transmitters busy everything is (R105 to R107, R109, R110,
R129 to R133). -/
def Obligations.SettleMovesOnlyTraffic : Prop :=
  ∀ s : State,
    (s.portU.tx ≠ .free → s.portD.tx ≠ .free → settle s = s) ∧
    keepsHeads s (settle s) ∧ keepsPad s (settle s) ∧ keepsBase s (settle s) ∧ (settle s).cu = s.cu ∧
    (settle s).store = s.store ∧ (settle s).fmap.sensor = s.fmap.sensor ∧
    (∀ f, ∃ tx e c, (settle s).fn f = { s.fn f with lastTx := tx, echo := e, clamped := c }) ∧
    (settle s).portU.link = s.portU.link ∧ (settle s).portU.streak = s.portU.streak ∧
    (settle s).portD.link = s.portD.link ∧ (settle s).portD.streak = s.portD.streak ∧
    { (settle s).mgmt with
      responses := s.mgmt.responses, heldBack := s.mgmt.heldBack, events := s.mgmt.events } = s.mgmt

/-- No transmitter stays free while traffic waits for it: after the choice, a free Port U has an empty upbound queue
and no response and no event waiting, and a free Port D an empty downbound queue and no eligible slot (R129, R130). -/
def Obligations.FreeTransmittersHaveNothingToSend : Prop :=
  ∀ s : State,
    ((settle s).portU.tx = .free →
      (settle s).fwd.up = [] ∧ (settle s).mgmt.responses = [] ∧ (settle s).mgmt.events = []) ∧
    ((settle s).portD.tx = .free → (settle s).fwd.down = [] ∧ eligibleSlots (settle s) = [])

/-- What a free Port U transmitter sends: the class other than the last one when both wait; of the OWN class the
oldest response before any event, else the oldest one to four event records; of the FORWARD class the oldest frame,
unchanged. What is sent leaves its queue, and the rest of that queue keeps its order. When a STATION_RESET record is among
the events that leave, a response that is held back takes its place in the response queue (R129, R130, R131, R132, R179).
How a record comes into the event queue: with fewer than 32 it joins the tail, with the station time, and carries in
dropped-before whether the dropped marker stood, which it clears; with 32 it is dropped and the marker is set, and
nothing else changes (R177). -/
def Obligations.PortUTakesTurns : Prop :=
  (∀ (kind : EventKind) (head : Option Head) (data : List (BitVec 32)) (s : State),
    (s.mgmt.events.length < 32 → queueEvent kind head data s =
      { s with mgmt := { s.mgmt with
          events := s.mgmt.events ++ [{ kind, head, time := s.base.time, data, droppedBefore := s.mgmt.dropped }]
          dropped := false } }) ∧
    (32 ≤ s.mgmt.events.length → queueEvent kind head data s = { s with mgmt := { s.mgmt with dropped := true } })) ∧
  ∀ s : State, s.portU.tx = .free →
    (∀ r rest, s.mgmt.responses = r :: rest → (s.fwd.up = [] ∨ s.portU.last = .forward) →
      (settle s).portU.tx = .busy (ownFrame r.dest s.base.ownAddr 5 (r.tag :: BitVec.ofNat 8 (outcomeCode r.outcome) :: r.results)) ∧
      (settle s).portU.last = .own ∧ (settle s).mgmt = { s.mgmt with responses := rest } ∧
      (settle s).fwd.up = s.fwd.up) ∧
    (s.mgmt.responses = [] → s.mgmt.events ≠ [] → (s.fwd.up = [] ∨ s.portU.last = .forward) →
      (settle s).portU.tx = .busy (ownFrame 63 s.base.ownAddr 6 (eventPayload (s.mgmt.events.take 4))) ∧
      (settle s).portU.last = .own ∧ (settle s).fwd.up = s.fwd.up ∧
      (∀ r, s.mgmt.heldBack = some r → (∃ e ∈ s.mgmt.events.take 4, e.kind = .stationReset) →
        (settle s).mgmt = { s.mgmt with events := s.mgmt.events.drop 4, responses := [r], heldBack := none }) ∧
      (s.mgmt.heldBack = none ∨ (∀ e ∈ s.mgmt.events.take 4, e.kind ≠ .stationReset) →
        (settle s).mgmt = { s.mgmt with events := s.mgmt.events.drop 4 })) ∧
    (∀ frame rest, s.fwd.up = frame :: rest →
      ((s.mgmt.responses = [] ∧ s.mgmt.events = []) ∨ s.portU.last = .own) →
      (settle s).portU.tx = .busy frame ∧ (settle s).portU.last = .forward ∧ (settle s).fwd.up = rest ∧
      (settle s).mgmt = s.mgmt)

/-! ## Recipe steps, programs and heads -/

/-- LOAD_STEP's checks in their order: an index above 31 is INVALID, without the limit block NOT_READY, an index that a
working head's program names STATE, and an end mode, another field of R4 or bounds of R5 that fail INVALID; what those
fields and bounds are is said in full. A request that passes: the record is stored with its effective bounds, every other index is kept, and the response
carries the fourteen bounds (R3, R4, R5). The minimum samples stored are 3 when the request gives none. The effective
bounds never leave the limit block's, never cross, and are the limit block's own when the request gives none (R5,
R172). The codes of the end modes are the model's choice (log 14). Free transmitters choose at the step's end: the
model's choice (log 10). -/
def Obligations.LoadStepStoresTheRecord : Prop :=
  (∀ (r : Request) (s : State) (a : StepArgs), Admitted r s → wholeWalk stepArgs r.args = some a →
    (31 < a.index → exec (.loadStep r) s = completes r .invalid [] (served r s)) ∧
    (a.index ≤ 31 → s.mgmt.limits = none → exec (.loadStep r) s = completes r .notReady [] (served r s)) ∧
    (∀ l, a.index ≤ 31 → s.mgmt.limits = some l →
      (stepInUse s a.index = true → exec (.loadStep r) s = completes r .state [] (served r s)) ∧
      (stepInUse s a.index = false →
        (endModeOfCode a.endMode = none ∨
          ∃ m, endModeOfCode a.endMode = some m ∧
            (stepFieldsOk a m = false ∨ boundsOk a.bounds.isSome (effectiveBounds l a.bounds) = false)) →
        exec (.loadStep r) s = completes r .invalid [] (served r s)))) ∧
  (∀ (s : State) (i : Nat), stepInUse s i = true ↔
    ∃ h p, headWorking s h = true ∧ (s.seq h).program = some p ∧ i ∈ p) ∧
  (∀ (a : StepArgs) (m : EndMode), stepFieldsOk a m = true ↔
    1000 ≤ a.limit ∧ a.limit ≤ 1800000 ∧ (∀ x, a.base.get x ≤ 1000) ∧
    (∀ b x, a.bounds = some b → (b.get x).lo ≤ 1000 ∧ (b.get x).hi ≤ 1000) ∧
    (∀ n, a.minSamples = some n → 1 ≤ n ∧ n ≤ 64) ∧
    (∀ c, a.control = some c → c.gain ≤ 256 ∧ 1 ≤ c.maxStep ∧ c.maxStep ≤ 100 ∧ 1 ≤ c.minRate ∧ c.minRate ≤ 10000 ∧
      2 ≤ c.depth ∧ c.depth ≤ 8) ∧
    (∀ e, a.endpoint = some e → e.margin ≤ 5000 ∧ 1 ≤ e.confirm ∧ e.confirm ≤ 8 ∧
      ∀ z, (∀ n, (e.zones.get z).target = some n → n ≤ 200000) ∧
        ∀ n, (e.zones.get z).cleared = some n → n ≤ 1000 ∧ (e.zones.get z).target ≠ none) ∧
    (m ≠ .time ∨ a.control ≠ none → ∃ e z, a.endpoint = some e ∧ (e.zones.get z).target ≠ none) ∧
    (∀ n, a.pad = some n → n ≤ 7)) ∧
  (∀ (b : PerArea Bounds) (l : LimitBlock), boundsOk true (effectiveBounds l (some b)) = true ↔
    ∀ x, max (b.get x).lo (l.areas.get x).min ≤ min (b.get x).hi (l.areas.get x).max) ∧
  ∀ (r : Request) (s : State) (a : StepArgs) (m : EndMode) (l : LimitBlock), Admitted r s →
    wholeWalk stepArgs r.args = some a → a.index ≤ 31 → s.mgmt.limits = some l → stepInUse s a.index = false →
    endModeOfCode a.endMode = some m → stepFieldsOk a m = true →
    boundsOk a.bounds.isSome (effectiveBounds l a.bounds) = true →
    ∃ t, exec (.loadStep r) s = completes r .done
        ((effectiveBounds l a.bounds).toList.flatMap fun b => u16 b.lo ++ u16 b.hi)
        { served r s with steps := t } ∧
      tableGet t a.index = some
        { endMode := m, limit := a.limit, base := a.base, bounds := effectiveBounds l a.bounds
          minSamples := a.minSamples.getD 3, control := a.control, endpoint := a.endpoint, pad := a.pad } ∧
      (∀ i, i ≠ a.index → tableGet t i = tableGet s.steps i) ∧
      (limitsOk l = true → ∀ x,
        (l.areas.get x).min ≤ ((effectiveBounds l a.bounds).get x).lo ∧
        ((effectiveBounds l a.bounds).get x).lo ≤ ((effectiveBounds l a.bounds).get x).hi ∧
        ((effectiveBounds l a.bounds).get x).hi ≤ (l.areas.get x).max ∧
        (a.bounds = none →
          (effectiveBounds l a.bounds).get x = { lo := (l.areas.get x).min, hi := (l.areas.get x).max }))

/-- LOAD_PROGRAM of 1 to 12 loaded step indices into a head that does not work: the program is replaced, the position
becomes none, the head is READY, and its result record is kept. LOAD_ZONE_MAP of a well-formed map of 60 entries: the
map is replaced, the open sweep discarded, the history emptied and the counter zeroed. The other head is untouched; a
head that works refuses both STATE (R6, R37, R38, R39). Free transmitters choose at the step's end: the model's choice
(log 10). -/
def Obligations.HeadsAreLoaded : Prop :=
  ∀ (r : Request) (s : State) (h : Head), Admitted r s →
    (∀ p, wholeWalk programArgs r.args = some { head := headCode h, steps := p } → 1 ≤ p.length → p.length ≤ 12 →
      (∀ i ∈ p, i ≤ 31) →
      ((∀ i ∈ p, tableGet s.steps i ≠ none) → headWorking s h = false →
        exec (.loadProgram r) s = completes r .done []
          ((served r s).setSeq h { s.seq h with state := .ready, program := some p, position := none })) ∧
      (headWorking s h = true → exec (.loadProgram r) s = completes r .state [] (served r s))) ∧
    (∀ codes m, wholeWalk zoneMapArgs r.args = some { head := headCode h, entries := codes } →
      codes.mapM mapEntryOfCode = some m →
      (headWorking s h = false → (∃ z, some z ∈ m) → (m.filterMap (Option.map zoneCode)).Pairwise (· ≤ ·) →
        exec (.loadZoneMap r) s = completes r .done []
          ((served r s).setSampler h { zoneMap := some m, openSweep := none, counter := 0, history := [] })) ∧
      (headWorking s h = true → exec (.loadZoneMap r) s = completes r .state [] (served r s)))

/-- LOAD_BLEND, LOAD_CONDITIONING and LOAD_PAD_SERVICE with good fields, at an index that is not in use: the index
holds the new contents, every other index what it held, and nothing else changes. Their refusals in order: an index or a
field out of range is INVALID; an index in use STATE: the granted entry and what it names, an entry that a step of a working head's
program names and what that entry names, and an entry that a waiting head awaits; and for LOAD_PAD_SERVICE a named blend or program that is empty NOT_READY (R71, R81, R86,
R87). Free transmitters choose at the step's end: the model's choice (log 10). -/
def Obligations.PadTablesAreLoaded : Prop :=
  (∀ b : Blend, blendOk b = true ↔
    b.flow ≤ 1000 ∧ b.ratio1 ≤ 1000 ∧ b.ratio2 ≤ 1000 ∧ b.ratio3 ≤ 1000 ∧ b.rinse ≤ 2000 ∧
      b.ratio1 + b.ratio2 + b.ratio3 = 1000) ∧
  (∀ p : CondProgram, condProgramOk p = true ↔
    p.force ≤ 500 ∧ p.speed ≤ 150 ∧ 1 ≤ p.segments.length ∧ p.segments.length ≤ 16 ∧
      ∀ x ∈ p.segments, x.position ≤ 4000 ∧ 10 ≤ x.dwell ∧ x.dwell ≤ 60000) ∧
  (∀ (s : State) (n : Nat),
    (entryInUse s n = true ↔
      s.arb.service.map Grant.entry = some n ∨ (∃ h, (h, n) ∈ s.arb.waiting) ∨ namedByWork s n) ∧
    (blendInUse s n = true ↔ ∃ e p, (s.arb.service.map Grant.entry = some e ∨ namedByWork s e) ∧
      tableGet s.arb.table e = some p ∧ p.blend = some n) ∧
    (conditioningInUse s n = true ↔ ∃ e p, (s.arb.service.map Grant.entry = some e ∨ namedByWork s e) ∧
      tableGet s.arb.table e = some p ∧ p.program = some n)) ∧
  ∀ (r : Request) (s : State), Admitted r s →
    (∀ i b, wholeWalk blendArgs r.args = some { index := i, blend := b } →
      (7 < i ∨ blendOk b = false → exec (.loadBlend r) s = completes r .invalid [] (served r s)) ∧
      (i ≤ 7 → blendOk b = true → blendInUse s i = true →
        exec (.loadBlend r) s = completes r .state [] (served r s))) ∧
    (∀ i p, wholeWalk conditioningArgs r.args = some { index := i, program := p } →
      (3 < i ∨ condProgramOk p = false → exec (.loadConditioning r) s = completes r .invalid [] (served r s)) ∧
      (i ≤ 3 → condProgramOk p = true → conditioningInUse s i = true →
        exec (.loadConditioning r) s = completes r .state [] (served r s))) ∧
    (∀ i p, wholeWalk padServiceArgs r.args = some { entry := i, service := p } →
      (7 < i ∨ (∃ b, p.blend = some b ∧ 7 < b) ∨ (∃ k, p.program = some k ∧ 3 < k) →
        exec (.loadPadService r) s = completes r .invalid [] (served r s)) ∧
      (i ≤ 7 → (∀ b, p.blend = some b → b ≤ 7) → (∀ k, p.program = some k → k ≤ 3) →
        (entryInUse s i = true → exec (.loadPadService r) s = completes r .state [] (served r s)) ∧
        (entryInUse s i = false →
          (∃ b, p.blend = some b ∧ tableGet s.dose.blends b = none) ∨
            (∃ k, p.program = some k ∧ tableGet s.cdr.programs k = none) →
          exec (.loadPadService r) s = completes r .notReady [] (served r s)))) ∧
    (∀ i b, wholeWalk blendArgs r.args = some { index := i, blend := b } → i ≤ 7 → blendOk b = true →
      blendInUse s i = false →
      ∃ t, exec (.loadBlend r) s = completes r .done []
          { served r s with dose := { s.dose with blends := t } } ∧
        tableGet t i = some b ∧ ∀ j, j ≠ i → tableGet t j = tableGet s.dose.blends j) ∧
    (∀ i p, wholeWalk conditioningArgs r.args = some { index := i, program := p } → i ≤ 3 → condProgramOk p = true →
      conditioningInUse s i = false →
      ∃ t, exec (.loadConditioning r) s = completes r .done []
          { served r s with cdr := { s.cdr with programs := t } } ∧
        tableGet t i = some p ∧ ∀ j, j ≠ i → tableGet t j = tableGet s.cdr.programs j) ∧
    (∀ i p, wholeWalk padServiceArgs r.args = some { entry := i, service := p } → i ≤ 7 →
      (∀ b, p.blend = some b → b ≤ 7 ∧ tableGet s.dose.blends b ≠ none) →
      (∀ k, p.program = some k → k ≤ 3 ∧ tableGet s.cdr.programs k ≠ none) → entryInUse s i = false →
      ∃ t, exec (.loadPadService r) s = completes r .done []
          { served r s with arb := { s.arb with table := t } } ∧
        tableGet t i = some p ∧ ∀ j, j ≠ i → tableGet t j = tableGet s.arb.table j)

/-- START_HEAD of a startable head in ACTIVE mode whose first step names no pad service: the result record is cleared,
the position is 1, STEP_ENTERED is queued, and the head polishes: base pressures within the effective bounds are
commanded and written to its slots, the step timer runs for the time limit, the sample-gap timer runs when the step is
watched, the head's sweeps and last computation are cleared, and its polishing interval opens (R8, R9, R11). The
refusals of START_HEAD in their order, whatever its first step names: another head than A or B is INVALID; TRANSPARENT mode
MODE; EMPTY, WAIT_PAD, POLISHING, PAUSED and HOLD STATE; a program with a control or endpoint section without a valid
SENSOR_CAL working copy or without a zone map NOT_READY, and so is one that names an empty pad service entry (R8). Free
transmitters choose at the step's end: the model's choice (log 10). -/
def Obligations.StartHeadEntersPolishing : Prop :=
  (∀ (r : Request) (s : State), Admitted r s →
    (∀ b : Byte, r.args = [b] → b ≠ 1 → b ≠ 2 → exec (.startHead r) s = completes r .invalid [] (served r s)) ∧
    (∀ h, namesHead r h →
      (s.mgmt.mode = .transparent → exec (.startHead r) s = completes r .mode [] (served r s)) ∧
      (s.mgmt.mode = .active → (s.seq h).state ∈ [HeadState.empty, .waitPad, .polishing, .paused, .hold] →
        exec (.startHead r) s = completes r .state [] (served r s)) ∧
      (∀ p, s.mgmt.mode = .active → (s.seq h).state ∈ [HeadState.ready, .done, .aborted] →
        (s.seq h).program = some p →
        ((∃ j ∈ p, ∃ x, tableGet s.steps j = some x ∧ (x.control ≠ none ∨ x.endpoint ≠ none)) ∧
            (s.store.cal = none ∨ (s.sampler h).zoneMap = none)) ∨
          (∃ j ∈ p, ∃ x e, tableGet s.steps j = some x ∧ x.pad = some e ∧ tableGet s.arb.table e = none) →
        exec (.startHead r) s = completes r .notReady [] (served r s)))) ∧
  ∀ (r : Request) (s : State) (h : Head) (p : List Nat) (i : Nat) (st : StepRecord), Admitted r s → namesHead r h →
    s.mgmt.mode = .active → (s.seq h).state ∈ [HeadState.ready, .done, .aborted] →
    (s.seq h).program = some (i :: p) → (∀ j ∈ i :: p, tableGet s.steps j ≠ none) →
    ((∃ j ∈ i :: p, ∃ x, tableGet s.steps j = some x ∧ (x.control ≠ none ∨ x.endpoint ≠ none)) →
      s.store.cal ≠ none ∧ (s.sampler h).zoneMap ≠ none) →
    (∀ j ∈ i :: p, ∀ x e, tableGet s.steps j = some x → x.pad = some e → tableGet s.arb.table e ≠ none) →
    tableGet s.steps i = some st → st.pad = none →
    (∀ g, s.arb.service = some g → g.holders.get h = false) →
    ∃ t, exec (.startHead r) s = completes r .done [] t ∧
      (∀ x, (t.seq h).commanded.get x =
        some (clampNat (st.bounds.get x).lo (st.bounds.get x).hi (st.base.get x))) ∧
      t.seq h = { state := .polishing, program := some (i :: p), position := some 1
                  timer := .running (s.base.time + BitVec.ofNat 32 st.limit)
                  gap := if st.control ≠ none ∨ st.endpoint ≠ none then
                    some (s.base.time + BitVec.ofNat 32 s.lim.sampleGapTimeout) else none
                  confirm := PerZone.fill 0, cleared := PerZone.fill false
                  commanded := (t.seq h).commanded, results := []
                  current := some { step := i, time := 0, sweeps := 0, interval := some s.base.time
                                    polished := true } } ∧
      t.sampler h = { s.sampler h with openSweep := none, counter := 0, history := [] } ∧ t.comp h = none ∧
      t.seq h.other = s.seq h.other ∧ t.sampler h.other = s.sampler h.other ∧ t.comp h.other = s.comp h.other ∧
      (∀ x, (t.slots.get (.head h x)).map Slot.value = (t.seq h).commanded.get x) ∧
      (∀ f, (∀ x, f ≠ .head h x) → t.slots.get f = s.slots.get f) ∧
      t.mgmt = (queueEvent .stepEntered (some h) [1, BitVec.ofNat 32 i] (served r s)).mgmt ∧
      t.cu = (served r s).cu ∧ t.steps = s.steps ∧ t.fmap = s.fmap ∧ t.store = s.store ∧
      keepsPad s t ∧ keepsPorts s t ∧ keepsBase s t

/-- START_HEAD of a startable head that holds no pad and whose first step names entry e. When station hold is on or
another entry is granted, the head writes its hold pressures and waits in WAIT_PAD at the tail of the waiting list,
both timers stopped. When the service is FREE, it is granted e at the present time: PAD_GRANTED is queued with one
holder, the dosing for one holder and the values of e's conditioning program, or of an entry without one, are written,
and the head polishes. When e is granted already, the head joins: PAD_GRANTED is queued, the dosing is recomputed for
the holders, and grant time and conditioner stay as they are (R8, R10, R73, R75, R78, R82, R89, R90). Free
transmitters choose at the step's end: the model's choice (log 10). -/
def Obligations.StartHeadAtAPadStep : Prop :=
  ∀ (r : Request) (s : State) (h : Head) (p : List Nat) (i e : Nat) (st : StepRecord), Admitted r s → namesHead r h →
    s.mgmt.mode = .active → (s.seq h).state ∈ [HeadState.ready, .done, .aborted] →
    (s.seq h).timer = .stopped → (s.seq h).gap = none →
    (s.seq h).program = some (i :: p) → (∀ j ∈ i :: p, tableGet s.steps j ≠ none) →
    ((∃ j ∈ i :: p, ∃ x, tableGet s.steps j = some x ∧ (x.control ≠ none ∨ x.endpoint ≠ none)) →
      s.store.cal ≠ none ∧ (s.sampler h).zoneMap ≠ none) →
    (∀ j ∈ i :: p, ∀ x e, tableGet s.steps j = some x → x.pad = some e → tableGet s.arb.table e ≠ none) →
    tableGet s.steps i = some st → st.pad = some e →
    (∀ g, s.arb.service = some g → g.holders.get h = false) →
    ∃ t, exec (.startHead r) s = completes r .done [] t ∧
      (t.seq h).position = some 1 ∧ (t.seq h).results = [] ∧ t.seq h.other = s.seq h.other ∧
      t.sampler h.other = s.sampler h.other ∧ t.comp h.other = s.comp h.other ∧ t.steps = s.steps ∧
      t.fmap = s.fmap ∧ t.cu = (served r s).cu ∧ t.store = s.store ∧ keepsPorts s t ∧ keepsBase s t ∧
      t.arb.table = s.arb.table ∧ t.arb.hold = s.arb.hold ∧ t.dose.blends = s.dose.blends ∧
      (s.arb.hold = true ∨ (∃ g, s.arb.service = some g ∧ g.entry ≠ e) →
        (t.seq h).state = .waitPad ∧ (t.seq h).timer = .stopped ∧ (t.seq h).gap = none ∧
        (∀ x, (t.seq h).commanded.get x = some (s.lim.areas.get x).hold ∧
          (t.slots.get (.head h x)).map Slot.value = some (s.lim.areas.get x).hold) ∧
        t.arb = { s.arb with waiting := s.arb.waiting ++ [(h, e)] } ∧
        t.samplers = s.samplers ∧ t.comps = s.comps ∧ t.dose = s.dose ∧ t.cdr = s.cdr ∧
        (∀ f, (∀ x, f ≠ .head h x) → t.slots.get f = s.slots.get f) ∧
        t.mgmt = (queueEvent .stepEntered (some h) [1, BitVec.ofNat 32 i] (served r s)).mgmt) ∧
      (s.arb.hold = false → s.arb.service = none →
        (t.seq h).state = .polishing ∧
        (t.seq h).timer = .running (s.base.time + BitVec.ofNat 32 st.limit) ∧
        t.arb = { s.arb with
          service := some { entry := e, holders := Pair.set ⟨false, false⟩ h true, time := s.base.time } } ∧
        t.dose.current = some (entryDose s e 1) ∧
        (t.slots.get .dose1).map Slot.value = some (entryDose s e 1).dose1 ∧
        (t.slots.get .dose2).map Slot.value = some (entryDose s e 1).dose2 ∧
        (t.slots.get .dose3).map Slot.value = some (entryDose s e 1).dose3 ∧
        (t.slots.get .rinse).map Slot.value = some (entryDose s e 1).rinse ∧
        ((tableGet s.arb.table e).bind PadService.program = none →
          t.cdr = s.cdr ∧ (t.slots.get .force).map Slot.value = some 0 ∧
          (t.slots.get .disk).map Slot.value = some 0 ∧
          (t.slots.get .arm).map Slot.value = some s.lim.park) ∧
        (∀ k q seg, (tableGet s.arb.table e).bind PadService.program = some k → tableGet s.cdr.programs k = some q →
          q.segments.head? = some seg →
          t.cdr = { s.cdr with
            run := some { program := k, force := min q.force s.lim.forceMax, speed := min q.speed s.lim.diskMax
                          segment := 1, phase := .travel (some (s.base.time + BitVec.ofNat 32 s.lim.arrivalTimeout))
                          target := clampNat s.lim.armMin s.lim.armMax seg.position, passes := 0 } } ∧
          (t.slots.get .force).map Slot.value = some (min q.force s.lim.forceMax) ∧
          (t.slots.get .disk).map Slot.value = some (min q.speed s.lim.diskMax) ∧
          (t.slots.get .arm).map Slot.value = some (clampNat s.lim.armMin s.lim.armMax seg.position)) ∧
        t.mgmt = (queueEvent .padGranted (some h) [BitVec.ofNat 32 e, 1]
          (queueEvent .stepEntered (some h) [1, BitVec.ofNat 32 i] (served r s))).mgmt) ∧
      (∀ g, s.arb.hold = false → s.arb.service = some g → g.entry = e →
        (t.seq h).state = .polishing ∧
        t.arb = { s.arb with service := some { g with holders := g.holders.set h true } } ∧
        t.dose.current = some (entryDose s e (holderCount (g.holders.set h true))) ∧ t.cdr = s.cdr ∧
        (∀ f ∈ [Fn.force, .disk, .arm], t.slots.get f = s.slots.get f) ∧
        t.mgmt = (queueEvent .padGranted (some h)
          [BitVec.ofNat 32 e, BitVec.ofNat 32 (holderCount (g.holders.set h true))]
          (queueEvent .stepEntered (some h) [1, BitVec.ofNat 32 i] (served r s))).mgmt)

/-- PAUSE_HEAD: a head in POLISHING enters PAUSED, its step timer FROZEN with the time it still has or EXPIRED, its
sample-gap timer stopped, its interval closed and added to the polishing time. RESUME_HEAD: a head in PAUSED returns
to POLISHING, its frozen step timer running for the time it had left or staying EXPIRED, its sample-gap timer
restarted when its step is watched, and a new interval open. Nothing else of the head and no other part of the state
changes; in any other state the request is refused STATE, and for an argument that is no head INVALID (R16, R17). -/
def Obligations.PauseFreezesAndResumeGoesOn : Prop :=
  ∀ (r : Request) (s : State) (h : Head), Admitted r s →
    (∀ b, r.args = [b] → b ≠ BitVec.ofNat 8 (headCode h) → b ≠ BitVec.ofNat 8 (headCode h.other) →
      exec (.pauseHead r) s = completes r .invalid [] (served r s) ∧
      exec (.resumeHead r) s = completes r .invalid [] (served r s)) ∧
    (namesHead r h → (s.seq h).state = .polishing →
      exec (.pauseHead r) s = completes r .done [] ((served r s).setSeq h { s.seq h with
        state := .paused
        timer := (match (s.seq h).timer with
          | .running d => .frozen (remainingTime s.base.time d)
          | x => x)
        gap := none
        current := (s.seq h).current.map fun c => { c with
          interval := none
          time := c.time + (match c.interval with
            | some t => (s.base.time - t).toNat
            | none => 0) } })) ∧
    (namesHead r h → (s.seq h).state ≠ .polishing → exec (.pauseHead r) s = completes r .state [] (served r s)) ∧
    (∀ st, namesHead r h → s.currentStep h = some st → (s.seq h).state = .paused →
      exec (.resumeHead r) s = completes r .done [] ((served r s).setSeq h { s.seq h with
        state := .polishing
        timer := (match (s.seq h).timer with
          | .frozen n => .running (s.base.time + BitVec.ofNat 32 n)
          | x => x)
        gap := if st.control ≠ none ∨ st.endpoint ≠ none then
          some (s.base.time + BitVec.ofNat 32 s.lim.sampleGapTimeout) else none
        current := (s.seq h).current.map fun c => { c with interval := some s.base.time } })) ∧
    (namesHead r h → (s.seq h).state ≠ .paused → exec (.resumeHead r) s = completes r .state [] (served r s))

/-- SKIP_STEP of a head in WAIT_PAD, POLISHING or PAUSED: a waiting head withdraws, and the step ends with cause SKIP. After
the last step its result is appended with the polishing time of the closed interval, STEP_ENDED is queued, the head releases
the pad if it holds it (AbortHeadEndsTheProgram says what releasePad does), the hold pressures are commanded, HEAD_DONE is
queued, the head is DONE, the wafer count rises, and an internal WEAR write is requested; after another step the next one is
entered. In any other state it is refused STATE (R18, R19, R20, R76). Free transmitters choose at the step's end: the
model's choice (log 10). -/
def Obligations.SkipOfTheLastStepEndsTheProgram : Prop :=
  ∀ (r : Request) (s : State) (h : Head), Admitted r s → namesHead r h →
    ((s.seq h).state ∉ [HeadState.waitPad, .polishing, .paused] →
      exec (.skipStep r) s = completes r .state [] (served r s)) ∧
    (∀ (p : List Nat) (n : Nat), (s.seq h).state ∈ [HeadState.waitPad, .polishing, .paused] →
      (s.seq h).program = some p → (s.seq h).position = some n → n < p.length →
      exec (.skipStep r) s = completes r .done [] (endStep h .skip
        (if (s.seq h).state = .waitPad then
          { served r s with arb := { s.arb with waiting := s.arb.waiting.filter (fun w => decide (w.1 ≠ h)) } }
        else served r s))) ∧
    (∀ (p : List Nat) (c : InProgress), (s.seq h).state ∈ [HeadState.waitPad, .polishing, .paused] →
      (s.seq h).program = some p → (s.seq h).position = some p.length → (s.seq h).current = some c →
      ∃ t u x, exec (.skipStep r) s = completes r .done [] t ∧
        u = releasePad h (queueEvent .stepEnded (some h) [BitVec.ofNat 32 c.step, 3, durationWord x.duration]
          (if (s.seq h).state = .waitPad then
            { served r s with arb := { s.arb with waiting := s.arb.waiting.filter (fun w => decide (w.1 ≠ h)) } }
          else served r s)) ∧
        t.seq h = { s.seq h with
          state := .done, timer := .stopped, gap := none, current := none, results := (s.seq h).results ++ [x]
          commanded := PerArea.tabulate fun a => some (s.lim.areas.get a).hold } ∧
        x.step = c.step ∧ x.cause = .skip ∧ x.duration = polishingTime s.base.time c ∧ x.sweeps = c.sweeps ∧
        x.cleared = (s.seq h).cleared ∧
        t.store.live = { s.store.live with wafers := min (s.store.live.wafers + 1) 4294967295 } ∧
        (s.store.engine = none → t.store.engine = some { contents := .wear t.store.live, origin := .internal } ∧
          t.store.wearPending = false) ∧
        (∀ w, s.store.engine = some w → t.store.engine = some w ∧ t.store.wearPending = true) ∧
        { t.store with live := s.store.live, engine := s.store.engine, wearPending := s.store.wearPending } = s.store ∧
        t.mgmt = (queueEvent .headDone (some h)
          [BitVec.ofNat 32 ((s.seq h).results.length + 1),
           durationWord (((s.seq h).results.map StepResult.duration).sum + x.duration)] u).mgmt ∧
        t.arb = u.arb ∧ t.dose = u.dose ∧ t.cdr = u.cdr ∧
        t.seq h.other = u.seq h.other ∧ t.samplers = u.samplers ∧ t.comps = u.comps ∧
        (s.mgmt.mode = .active → ∀ a, slotValue t (.head h a) = some (s.lim.areas.get a).hold) ∧
        (∀ f, (∀ a, f ≠ .head h a) → t.slots.get f = u.slots.get f) ∧
        t.steps = s.steps ∧ keepsPorts s t ∧ keepsBase s t ∧ t.fmap = s.fmap ∧ t.cu = (served r s).cu)

/-- ABORT_HEAD of a working head: a waiting head withdraws, another releases the pad if it holds it, its hold pressures are
commanded, both timers stop, HEAD_ABORTED is queued, a step result with cause ABORT is appended, and the head is ABORTED at
the position it had; neither the wafer count nor the store changes. In EMPTY, READY, DONE and ABORTED it is refused STATE. A
release: of a head that holds nothing changes nothing; with the other head still holding, the grant goes on and the dosing
is recomputed for one; with no holder left the program stops, and the first waiting head is granted its entry, with
PAD_GRANTED, its dosing, its program or the parked arm, and polishes; or, with none waiting, the service is FREE and the idle
values are written (R21, R74, R75, R76, R77). Free transmitters choose at the step's end: the model's choice (log 10). -/
def Obligations.AbortHeadEndsTheProgram : Prop :=
  (∀ (r : Request) (s : State) (h : Head), Admitted r s → namesHead r h →
    (∀ c, (s.seq h).state ∈ [HeadState.waitPad, .polishing, .paused, .hold] → (s.seq h).current = some c →
      ∃ t u x, exec (.abortHead r) s = completes r .done [] t ∧
        u = (if (s.seq h).state = .waitPad then
            { served r s with arb := { s.arb with waiting := s.arb.waiting.filter (fun w => decide (w.1 ≠ h)) } }
          else releasePad h (served r s)) ∧
        t.seq h = { s.seq h with
          state := .aborted, timer := .stopped, gap := none, current := none, results := (s.seq h).results ++ [x]
          commanded := PerArea.tabulate fun a => some (s.lim.areas.get a).hold } ∧
        x.step = c.step ∧ x.cause = .abort ∧ x.duration = polishingTime s.base.time c ∧ x.sweeps = c.sweeps ∧
        x.cleared = (s.seq h).cleared ∧
        t.mgmt = (queueEvent .headAborted (some h)
          [BitVec.ofNat 32 ((s.seq h).position.getD 0), BitVec.ofNat 32 c.step, durationWord x.duration] u).mgmt ∧
        t.arb = u.arb ∧ t.dose = u.dose ∧ t.cdr = u.cdr ∧
        t.seq h.other = u.seq h.other ∧ t.samplers = u.samplers ∧ t.comps = u.comps ∧
        (s.mgmt.mode = .active → ∀ a, slotValue t (.head h a) = some (s.lim.areas.get a).hold) ∧
        (∀ f, (∀ a, f ≠ .head h a) → t.slots.get f = u.slots.get f) ∧
        t.steps = s.steps ∧ t.store = s.store ∧ keepsPorts s t ∧ keepsBase s t ∧ t.fmap = s.fmap ∧
        t.cu = (served r s).cu) ∧
    ((s.seq h).state ∈ [HeadState.empty, .ready, .done, .aborted] →
      exec (.abortHead r) s = completes r .state [] (served r s))) ∧
  (∀ (s : State) (h : Head),
    ((∀ g, s.arb.service = some g → g.holders.get h = false) → releasePad h s = s) ∧
    (∀ g t, s.arb.service = some g → g.holders.get h = true → t = releasePad h s →
      (g.holders.get h.other = true →
        t.arb = { s.arb with service := some { g with holders := g.holders.set h false } } ∧
        (s.mgmt.mode = .active → t.dose.current = some (entryDose s g.entry 1) ∧
          slotValue t .dose1 = some (entryDose s g.entry 1).dose1 ∧
          slotValue t .dose2 = some (entryDose s g.entry 1).dose2 ∧
          slotValue t .dose3 = some (entryDose s g.entry 1).dose3 ∧
          slotValue t .rinse = some (entryDose s g.entry 1).rinse) ∧
        (∀ f, f ∉ [Fn.dose1, .dose2, .dose3, .rinse] → t.slots.get f = s.slots.get f) ∧
        t.dose.blends = s.dose.blends ∧ { t with arb := s.arb, dose := s.dose, slots := s.slots } = s) ∧
      (g.holders.get h.other = false → s.arb.waiting = [] →
        t.arb = { s.arb with service := none } ∧ t.cdr = { s.cdr with run := none } ∧
        (s.mgmt.mode = .active → t.dose.current = some { dose1 := 0, dose2 := 0, dose3 := 0, rinse := 0 } ∧
          (∀ f ∈ [Fn.dose1, .dose2, .dose3, .rinse, .force, .disk], slotValue t f = some 0) ∧
          slotValue t .arm = some s.lim.park) ∧
        (∀ k a, t.slots.get (.head k a) = s.slots.get (.head k a)) ∧
        t.dose.blends = s.dose.blends ∧
        { t with arb := s.arb, dose := s.dose, cdr := s.cdr, slots := s.slots } = s) ∧
      (∀ w e rest, g.holders.get h.other = false → s.arb.waiting = (w, e) :: rest →
        t.arb = { s.arb with
          service := some { entry := e, holders := Pair.set ⟨false, false⟩ w true, time := s.base.time }
          waiting := rest } ∧
        t.mgmt = (queueEvent .padGranted (some w) [BitVec.ofNat 32 e, 1] s).mgmt ∧
        (s.mgmt.mode = .active → t.dose.current = some (entryDose s e 1) ∧
          slotValue t .dose1 = some (entryDose s e 1).dose1 ∧ slotValue t .dose2 = some (entryDose s e 1).dose2 ∧
          slotValue t .dose3 = some (entryDose s e 1).dose3 ∧ slotValue t .rinse = some (entryDose s e 1).rinse) ∧
        ((tableGet s.arb.table e).bind PadService.program = none →
          t.cdr = { s.cdr with run := none } ∧
          (s.mgmt.mode = .active → slotValue t .force = some 0 ∧ slotValue t .disk = some 0 ∧
            slotValue t .arm = some s.lim.park)) ∧
        (∀ k q seg, (tableGet s.arb.table e).bind PadService.program = some k → tableGet s.cdr.programs k = some q →
          q.segments.head? = some seg →
          t.cdr = { s.cdr with
            run := some { program := k, force := min q.force s.lim.forceMax, speed := min q.speed s.lim.diskMax
                          segment := 1, phase := .travel (some (s.base.time + BitVec.ofNat 32 s.lim.arrivalTimeout))
                          target := clampNat s.lim.armMin s.lim.armMax seg.position, passes := 0 } } ∧
          (s.mgmt.mode = .active → slotValue t .force = some (min q.force s.lim.forceMax) ∧
            slotValue t .disk = some (min q.speed s.lim.diskMax) ∧
            slotValue t .arm = some (clampNat s.lim.armMin s.lim.armMax seg.position))) ∧
        (∀ st, (s.seq w).state = .waitPad → s.currentStep w = some st →
          (t.seq w).state = .polishing ∧
          (t.seq w).timer = .running (s.base.time + BitVec.ofNat 32 st.limit) ∧
          (∀ a, (t.seq w).commanded.get a =
            some (clampNat (st.bounds.get a).lo (st.bounds.get a).hi (st.base.get a))) ∧
          t.sampler w = { s.sampler w with openSweep := none, counter := 0, history := [] } ∧ t.comp w = none) ∧
        ((s.seq w).state ≠ .waitPad → t.seqs = s.seqs ∧ t.samplers = s.samplers ∧ t.comps = s.comps) ∧
        t.seq w.other = s.seq w.other ∧ t.sampler w.other = s.sampler w.other ∧ t.comp w.other = s.comp w.other ∧
        t.dose.blends = s.dose.blends ∧ t.steps = s.steps ∧ t.store = s.store ∧ t.fmap = s.fmap ∧ t.cu = s.cu ∧
        keepsPorts s t ∧ keepsBase s t)))

/-- READ_RESULT and READ_PROFILE report a head and change nothing: the summary, the k-th step result or a mark that
none stands there, the last computation's entry of a zone, the p-th newest record of the history (R27, R67). The codes
of the items, and layouts beyond R197, are the model's choice (logs 14, 15). Free transmitters choose at the step's
end: the model's choice (log 10). -/
def Obligations.HeadReadsChangeNothing : Prop :=
  ∀ (r : Request) (s : State) (h : Head), Admitted r s →
    (r.args = [BitVec.ofNat 8 (headCode h), 1] →
      exec (.readResult r) s = completes r .done (summaryBytes s h) (served r s)) ∧
    (∀ k, 1 ≤ k → k ≤ 12 → r.args = [BitVec.ofNat 8 (headCode h), 2, BitVec.ofNat 8 k] →
      exec (.readResult r) s = completes r .done
        (match (s.seq h).results[k - 1]? with
          | none => [0]
          | some x => 1 :: resultBytes x) (served r s)) ∧
    (∀ z, r.args = [BitVec.ofNat 8 (headCode h), 1, BitVec.ofNat 8 (zoneCode z)] →
      exec (.readProfile r) s = completes r .done
        (profileHeader s h ++ match s.comp h with
          | none => [0]
          | some c => 1 :: computationBytes z c) (served r s)) ∧
    (∀ k, 1 ≤ k → k ≤ 8 → r.args = [BitVec.ofNat 8 (headCode h), 2, BitVec.ofNat 8 k] →
      exec (.readProfile r) s = completes r .done
        (profileHeader s h ++ match (s.sampler h).history.reverse[k - 1]? with
          | none => [0]
          | some x => 1 :: sweepBytes x) (served r s))

/-- Expiry of a step timer that is due: with end mode ENDPOINT the timer becomes EXPIRED and STEP_TIMEOUT of the head
has an occurrence with the step index; with the other end modes the step ends with cause TIME. A timer that is not due
brings nothing, and neither does COMMIT_COMPLETION with an idle engine: that is the model's choice (log 8) (R12). Free
transmitters choose at the step's end: the model's choice (log 10). -/
def Obligations.StepTimerExpiryActsByEndMode : Prop :=
  ∀ (s : State) (h : Head) (i : Nat) (st : StepRecord), isRunning s = true → currentIndex (s.seq h) = some i →
    tableGet s.steps i = some st →
    (∀ d, (s.seq h).timer = .running d → reached s.base.time d = true →
      (st.endMode = .endpoint →
        exec (.stepTimerExpiry h) s = .next (settle
          (occurrence (match h with | .a => .stepTimeoutA | .b => .stepTimeoutB) (.step i)
            (s.setSeq h { s.seq h with timer := .expired })))) ∧
      (st.endMode ≠ .endpoint → exec (.stepTimerExpiry h) s = .next (settle (endStep h .time s)))) ∧
    ((∀ d, (s.seq h).timer = .running d → reached s.base.time d = false) →
      exec (.stepTimerExpiry h) s = .next (settle s)) ∧
    (s.store.engine = none → exec .commitCompletion s = .next (settle s))

/-- What the end of a step that is not the last leaves when the next step names no pad service, or the entry that the head
holds: the result appended with its cause, STEP_ENDED and STEP_ENTERED queued in this order, the position raised by 1, and
the head polishing the next step. In the first case the head releases the pad if it holds it, as AbortHeadEndsTheProgram
says of releasePad; in the second the grant, its time, the dosing and the conditioner go on as they were (R9, R11, R19, R73,
R74). -/
def Obligations.StepEndEntersTheNextStep : Prop :=
  ∀ (s : State) (h : Head) (cause : EndCause) (p : List Nat) (n i : Nat) (c : InProgress) (st : StepRecord),
    (s.seq h).program = some p → (s.seq h).position = some n → n < p.length → p[n]? = some i →
    tableGet s.steps i = some st → (s.seq h).current = some c →
    (st.pad = none ∨ ∃ g, st.pad = some g.entry ∧ s.arb.hold = false ∧ s.arb.service = some g ∧
      g.holders.get h = true) →
    ∃ x u v, u = queueEvent .stepEntered (some h) [BitVec.ofNat 32 (n + 1), BitVec.ofNat 32 i]
        (queueEvent .stepEnded (some h)
          [BitVec.ofNat 32 c.step, BitVec.ofNat 32 (causeCode cause), durationWord x.duration] s) ∧
      v = (if st.pad = none then releasePad h u else u) ∧
      ((endStep h cause s).seq h).results = (s.seq h).results ++ [x] ∧
      x.step = c.step ∧ x.cause = cause ∧ x.duration = polishingTime s.base.time c ∧ x.sweeps = c.sweeps ∧
      ((endStep h cause s).seq h).state = .polishing ∧ ((endStep h cause s).seq h).position = some (n + 1) ∧
      ((endStep h cause s).seq h).timer = .running (s.base.time + BitVec.ofNat 32 st.limit) ∧
      ((endStep h cause s).seq h).current = some { step := i, time := 0, sweeps := 0
                                                   interval := some s.base.time, polished := true } ∧
      (∀ a, ((endStep h cause s).seq h).commanded.get a =
        some (clampNat (st.bounds.get a).lo (st.bounds.get a).hi (st.base.get a))) ∧
      (endStep h cause s).sampler h = { s.sampler h with openSweep := none, counter := 0, history := [] } ∧
      (endStep h cause s).comp h = none ∧
      (endStep h cause s).mgmt = v.mgmt ∧ (endStep h cause s).arb = v.arb ∧ (endStep h cause s).dose = v.dose ∧
      (endStep h cause s).cdr = v.cdr ∧ (endStep h cause s).seq h.other = v.seq h.other ∧
      (endStep h cause s).sampler h.other = v.sampler h.other ∧ (endStep h cause s).comp h.other = v.comp h.other ∧
      (∀ f, (∀ a, f ≠ .head h a) → (endStep h cause s).slots.get f = v.slots.get f) ∧
      keepsPorts s (endStep h cause s) ∧ keepsBase s (endStep h cause s) ∧ (endStep h cause s).store = s.store ∧
      (endStep h cause s).fmap = s.fmap ∧ (endStep h cause s).steps = s.steps ∧ (endStep h cause s).cu = s.cu

/-- Expiry of a timer that is due: a sample-gap timer stops and SAMPLE_GAP of the head has an occurrence with the step
index; the arrival timer becomes EXPIRED in the same travel and ARM_STALL has one with program, segment and target;
the supervision timer stops and SUPERVISION_LOSS presence begins; a deviation dwell timer makes its function DEVIATED,
and the presence of its group begins when none of the group was DEVIATED (R13, R92, R114, R115, R176). Free
transmitters choose at the step's end: the model's choice (log 10). -/
def Obligations.TimerExpiriesReport : Prop :=
  ∀ (s : State) (d : Time), isRunning s = true → reached s.base.time d = true →
    (∀ h i, currentIndex (s.seq h) = some i → (s.seq h).gap = some d →
      exec (.sampleGapExpiry h) s = .next (settle
        (occurrence (match h with | .a => .sampleGapA | .b => .sampleGapB) (.step i)
          (s.setSeq h { s.seq h with gap := none })))) ∧
    (∀ run, s.cdr.run = some run → run.phase = .travel (some d) →
      exec .arrivalTimerExpiry s = .next (settle
        (occurrence .armStall (.arm run.program run.segment run.target)
          { s with cdr := { s.cdr with run := some { run with phase := .travel none } } }))) ∧
    (s.mgmt.supTimer = some d →
      exec .supervisionExpiry s = .next (settle (beginPresence .supervisionLoss none
        { s with mgmt := { s.mgmt with supTimer := none, supLoss := true } }))) ∧
    (∀ f k, (s.fn f).dev = .dwell d → deviationSource f = some k →
      ((∀ g, deviationSource g = some k → (s.fn g).dev ≠ .deviated) →
        exec (.deviationDwellExpiry f) s = .next (settle (beginPresence k (some (.function f))
          (s.setFn f { s.fn f with dev := .deviated })))) ∧
      ((∃ g, deviationSource g = some k ∧ (s.fn g).dev = .deviated) →
        exec (.deviationDwellExpiry f) s = .next (settle (s.setFn f { s.fn f with dev := .deviated }))))

/-! ## Pad: dosing, conditioning and wear -/

/-- The flow split of a blend whose ratios sum to 1,000: each channel gets its truncated share, the lowest-numbered
channel of the largest ratio also the remainder of at most 2, each clamped to its maximum; so no channel passes its
maximum, the three never sum to more than the total max, they sum to the clamped total when no channel maximum acts,
and the rinse is the blend's within the rinse max (R83). -/
def Obligations.FlowSplitKeepsTheTotal : Prop :=
  ∀ (l : LimitBlock) (b : Blend) (n : Nat), b.ratio1 + b.ratio2 + b.ratio3 = 1000 →
    (flowSplit l b n).dose1 ≤ l.dose1Max ∧ (flowSplit l b n).dose2 ≤ l.dose2Max ∧
    (flowSplit l b n).dose3 ≤ l.dose3Max ∧ (flowSplit l b n).rinse = min b.rinse l.rinseMax ∧
    (flowSplit l b n).dose1 + (flowSplit l b n).dose2 + (flowSplit l b n).dose3 ≤ min (b.flow * n) l.totalMax ∧
    (l.totalMax ≤ l.dose1Max → l.totalMax ≤ l.dose2Max → l.totalMax ≤ l.dose3Max →
      (flowSplit l b n).dose1 + (flowSplit l b n).dose2 + (flowSplit l b n).dose3 = min (b.flow * n) l.totalMax) ∧
    (∀ total rest, total = min (b.flow * n) l.totalMax →
      rest = total - (total * b.ratio1 / 1000 + total * b.ratio2 / 1000 + total * b.ratio3 / 1000) →
      rest ≤ 2 ∧
      (flowSplit l b n).dose1 = min
        (total * b.ratio1 / 1000 + if b.ratio2 ≤ b.ratio1 ∧ b.ratio3 ≤ b.ratio1 then rest else 0) l.dose1Max ∧
      (flowSplit l b n).dose2 = min
        (total * b.ratio2 / 1000 + if b.ratio1 < b.ratio2 ∧ b.ratio3 ≤ b.ratio2 then rest else 0) l.dose2Max ∧
      (flowSplit l b n).dose3 = min
        (total * b.ratio3 / 1000 + if b.ratio1 < b.ratio3 ∧ b.ratio2 < b.ratio3 then rest else 0) l.dose3Max)

/-- Expiry of a dwell timer that is due: the wear of the dwell is added when force and speed are above 0, with the
remainders carried and the counters stopping at 4,000,000,000; the next segment, or segment 1 with the pass count
raised, is travelled to with its position clamped to the arm bounds and written to ARM; and then wear presence is
evaluated (R90, R93, R94, R96). That wear presence is evaluated after the travel is the model's reading (log 34). Free
transmitters choose at the step's end: the model's choice (log 10). -/
def Obligations.DwellExpiryAddsWearAndTravelsOn : Prop :=
  ∀ (s : State) (run : CondRun) (p : CondProgram) (seg next : Segment) (d : Time), isRunning s = true →
    s.cdr.run = some run → run.phase = .dwell d → reached s.base.time d = true →
    tableGet s.cdr.programs run.program = some p → 1 ≤ run.segment → p.segments[run.segment - 1]? = some seg →
    (if p.segments.length ≤ run.segment then p.segments[0]? else p.segments[run.segment]?) = some next →
    ∃ t, exec .dwellTimerExpiry s =
        .next (settle (if 0 < run.force ∧ 0 < run.speed then evaluateWear t else t)) ∧
      t.cdr.run = some { run with
        segment := if p.segments.length ≤ run.segment then 1 else run.segment + 1
        passes := if p.segments.length ≤ run.segment then min (run.passes + 1) 65535 else run.passes
        target := clampNat s.lim.armMin s.lim.armMax next.position
        phase := .travel (some (s.base.time + BitVec.ofNat 32 s.lim.arrivalTimeout)) } ∧
      (0 < run.force ∧ 0 < run.speed →
        t.store.live = { s.store.live with
          pad := min (s.store.live.pad + (run.force * seg.dwell + s.cdr.padRem) / 10000) 4000000000
          disk := min (s.store.live.disk + (seg.dwell + s.cdr.diskRem) / 1000) 4000000000 } ∧
        t.cdr.padRem = (run.force * seg.dwell + s.cdr.padRem) % 10000 ∧
        t.cdr.diskRem = (seg.dwell + s.cdr.diskRem) % 1000) ∧
      (¬(0 < run.force ∧ 0 < run.speed) →
        t.store.live = s.store.live ∧ t.cdr.padRem = s.cdr.padRem ∧ t.cdr.diskRem = s.cdr.diskRem) ∧
      (s.mgmt.mode = .active → (t.slots.get .arm).map Slot.value =
        some (clampNat s.lim.armMin s.lim.armMax next.position)) ∧
      (∀ f, f ≠ .arm → t.slots.get f = s.slots.get f) ∧
      t.cdr.programs = s.cdr.programs ∧ t.cdr.padWorn = s.cdr.padWorn ∧ t.cdr.diskWorn = s.cdr.diskWorn ∧
      { t.store with live := s.store.live } = s.store ∧
      keepsHeads s t ∧ t.arb = s.arb ∧ t.dose = s.dose ∧ keepsPorts s t ∧ t.fmap = s.fmap ∧ t.cu = s.cu ∧
      t.mgmt = s.mgmt ∧ keepsBase s t

/-- REPLACE_CONSUMABLE while the conditioner is IDLE: the item's live counter and remainder become 0, its count rises
by 1 and stops at 65,535, wear presence is evaluated, and an internal WEAR write is requested; while it runs the
request is refused STATE, and another item INVALID. An evaluation of wear presence (evaluateWear): each presence becomes
what the life limits and the live counters say, a worn counter with the limit block written; the beginning of a presence is
reported with its counter and the loss of one as a loss, and where neither changes nothing does; of two presences that begin
at once the free order is the model's choice (log 32) (R96, R97). The codes of the items are the model's choice (log 14).
Free transmitters choose at the step's end: the model's choice (log 10). -/
def Obligations.ReplacingAConsumable : Prop :=
  (∀ (r : Request) (s : State) (b : Byte), Admitted r s → r.args = [b] →
    (b ≠ 1 → b ≠ 2 → exec (.replaceConsumable r) s = completes r .invalid [] (served r s)) ∧
    (b = 1 ∨ b = 2 → s.cdr.run ≠ none → exec (.replaceConsumable r) s = completes r .state [] (served r s)) ∧
    (b = 1 → s.cdr.run = none →
      exec (.replaceConsumable r) s = .next (settle (respond r.origin r.tag { outcome := .done, results := [] }
        (requestWearWrite (evaluateWear { served r s with
          store := { s.store with live := { s.store.live with
            pad := 0, padCount := min (s.store.live.padCount + 1) 65535 } }
          cdr := { s.cdr with padRem := 0 } }))))) ∧
    (b = 2 → s.cdr.run = none →
      exec (.replaceConsumable r) s = .next (settle (respond r.origin r.tag { outcome := .done, results := [] }
        (requestWearWrite (evaluateWear { served r s with
          store := { s.store with live := { s.store.live with
            disk := 0, diskCount := min (s.store.live.diskCount + 1) 65535 } }
          cdr := { s.cdr with diskRem := 0 } })))))) ∧
  (∀ (s p d : State), p = { s with cdr := { s.cdr with padWorn := !s.cdr.padWorn } } →
    d = { s with cdr := { s.cdr with diskWorn := !s.cdr.diskWorn } } →
    ((s.cdr.padWorn = true ↔ wornOut s Wear.pad LimitBlock.padLife) →
      ((s.cdr.diskWorn = true ↔ wornOut s Wear.disk LimitBlock.diskLife) → evaluateWear s = s) ∧
      (s.cdr.diskWorn = false → wornOut s Wear.disk LimitBlock.diskLife →
        evaluateWear s = beginPresence .diskWorn (some (.wear s.store.live.disk)) d) ∧
      (s.cdr.diskWorn = true → ¬wornOut s Wear.disk LimitBlock.diskLife →
        evaluateWear s = d.setSource .diskWorn (withoutPresence (s.source .diskWorn)))) ∧
    ((s.cdr.diskWorn = true ↔ wornOut s Wear.disk LimitBlock.diskLife) →
      (s.cdr.padWorn = false → wornOut s Wear.pad LimitBlock.padLife →
        evaluateWear s = beginPresence .padWorn (some (.wear s.store.live.pad)) p) ∧
      (s.cdr.padWorn = true → ¬wornOut s Wear.pad LimitBlock.padLife →
        evaluateWear s = p.setSource .padWorn (withoutPresence (s.source .padWorn)))) ∧
    ((evaluateWear s).cdr.padWorn = true ↔ wornOut s Wear.pad LimitBlock.padLife) ∧
    ((evaluateWear s).cdr.diskWorn = true ↔ wornOut s Wear.disk LimitBlock.diskLife) ∧
    ((evaluateWear s).mgmt.limits = s.mgmt.limits ∧ (evaluateWear s).store.live = s.store.live))

/-! ## Thickness and zone pressure -/

/-- What a sweep close does to a polishing head. Endpoint: each zone with a target, not yet cleared and present raises its
confirm count at or below target plus margin and loses it above; at the confirm count it is cleared, with ZONE_CLEARED and
its cleared pressure within the effective bounds; the close that clears the last target queues HEAD_ENDPOINT. Control: a
candidate's rate over the window, remaining thickness and finish time, at most 3,600,000, give its status; with two or more
finish times the reference is their truncated mean, and with a reference above 0 each is corrected. A correction: the ideal
is P × T ÷ T_ref truncated; the change is gain × (ideal − P) ÷ 256 truncated toward zero, at most max step in either
direction, which is recorded; the new pressure lies within the effective bounds; the bound clamp is recorded exactly when
the unclamped pressure left them, and then the new pressure is the bound it passed, and LIMIT_REACHED occurs; a changed
pressure is commanded and written. Every close on which control runs leaves its computation. The order is endpoint, control,
step end; a close in PAUSED sets the sweep count alone and in another state nothing. That an action of LIMIT_REACHED follows
the whole close is deduced (log 25) (R47, R51, R54, R55, R56, R58, R59, R60, R61, R62, R63, R64, R65). -/
def Obligations.CorrectionsStayWithinBounds : Prop :=
  (∀ (c : ControlSection) (b : Bounds) (p t reference : Nat), b.lo ≤ b.hi → 1 ≤ reference →
    (correction c b p t reference).ideal = p * t / reference ∧
    ((correction c b p t reference).unclamped - p).natAbs ≤ c.maxStep ∧
    (correction c b p t reference).unclamped =
      p + max (-(c.maxStep : Int)) (min c.maxStep (Int.tdiv (c.gain * ((p * t / reference : Nat) - (p : Int))) 256)) ∧
    ((correction c b p t reference).limited = true ↔
      c.maxStep < (Int.tdiv (c.gain * ((p * t / reference : Nat) - (p : Int))) 256).natAbs) ∧
    b.lo ≤ (correction c b p t reference).after ∧ (correction c b p t reference).after ≤ b.hi ∧
    ((b.lo : Int) ≤ (correction c b p t reference).unclamped → (correction c b p t reference).unclamped ≤ b.hi →
      (correction c b p t reference).clamped = false ∧
      ((correction c b p t reference).after : Int) = (correction c b p t reference).unclamped) ∧
    ((correction c b p t reference).unclamped < b.lo →
      (correction c b p t reference).clamped = true ∧ (correction c b p t reference).after = b.lo) ∧
    ((b.hi : Int) < (correction c b p t reference).unclamped →
      (correction c b p t reference).clamped = true ∧ (correction c b p t reference).after = b.hi) ∧
    (c.gain = 0 → (correction c b p t reference).unclamped = p)) ∧
  (∀ (c : ControlSection) (e : EndpointSection) (older : List SweepRecord) (n : SweepRecord) (cleared : PerZone Bool)
      (before : Nat) (z : Zone) (entry : ZoneEntry), entry = rateStage c e (older ++ [n]) n cleared before z →
    (entry.before = before ∧ entry.ideal = none ∧ entry.after = none ∧ entry.stepLimited = none ∧
      entry.boundClamped = none) ∧
    ((e.zones.get z).target = none → entry = bareEntry .noTarget before) ∧
    (∀ target, (e.zones.get z).target = some target →
      (cleared.get z = true → entry = bareEntry .cleared before) ∧
      (cleared.get z = false → n.zones.get z = none → entry = bareEntry .absent before) ∧
      (∀ m, cleared.get z = false → n.zones.get z = some m →
        entry.remaining = some (m.mean - target) ∧
        ((∀ x ∈ older, x.zones.get z = none) →
          entry.status = .oneRecord ∧ entry.oNumber = none ∧ entry.rate = none ∧ entry.finish = none) ∧
        (∀ (pre post : List SweepRecord) (o : SweepRecord) (mo : ZoneMean) (dt : Nat) (rate : Int),
          older = pre ++ o :: post → (∀ x ∈ pre, x.zones.get z = none) → o.zones.get z = some mo →
          dt = (n.closed - o.closed).toNat → rate = Int.tdiv (((mo.mean : Int) - m.mean) * 1000) dt →
          entry.oNumber = some o.number ∧
          (dt = 0 → entry.status = .zeroInterval ∧ entry.rate = none ∧ entry.finish = none) ∧
          (dt ≠ 0 → rate < c.minRate → entry.status = .slow ∧ entry.rate = some rate ∧ entry.finish = none) ∧
          (dt ≠ 0 → (c.minRate : Int) ≤ rate → entry.status = .corrected ∧ entry.rate = some rate ∧
            entry.finish = some (min ((m.mean - target) * 1000 / rate.toNat) 3600000)))))) ∧
  (∀ (s : State) (h : Head) (st : StepRecord) (c : ControlSection) (e : EndpointSection) (n : SweepRecord)
      (window : List SweepRecord) (entries : PerZone ZoneEntry) (times : List Nat) (made : Computation),
    window = (s.sampler h).history.drop ((s.sampler h).history.length - c.depth) →
    (∀ z, entries.get z = rateStage c e window n (s.seq h).cleared
      (((s.seq h).commanded.get (.zone z)).getD Config.absentPressure) z) →
    times = [Zone.z1, .z2, .z3, .z4, .z5, .z6].filterMap (fun z => (entries.get z).finish) →
    (controlZones h st c e n s).comp h = some made →
    made.number = n.number ∧ made.closed = n.closed ∧ made.window = window.length ∧
    (times.length < 2 → made.outcome = .tooFew ∧ made.reference = none ∧ made.zones = entries ∧
      controlZones h st c e n s = s.setComp h (some made)) ∧
    (2 ≤ times.length → times.sum / times.length = 0 →
      made.outcome = .noReference ∧ made.reference = some 0 ∧ made.zones = entries ∧
      controlZones h st c e n s = s.setComp h (some made)) ∧
    (∀ k : Zone → Correction, 2 ≤ times.length → times.sum / times.length ≠ 0 →
      (∀ z t, (entries.get z).finish = some t →
        k z = correction c (st.bounds.get (.zone z)) (entries.get z).before t (times.sum / times.length)) →
      made.outcome = .applied ∧ made.reference = some (times.sum / times.length) ∧
      (∀ z, ((entries.get z).finish = none → made.zones.get z = entries.get z) ∧
        ((entries.get z).finish ≠ none → made.zones.get z = { entries.get z with
          ideal := some (k z).ideal, after := some (k z).after, stepLimited := some (k z).limited
          boundClamped := some (k z).clamped })) ∧
      controlZones h st c e n s =
        ([Zone.z1, .z2, .z3, .z4, .z5, .z6].foldl (fun t z =>
          if (entries.get z).finish = none then t else correctZone h z (entries.get z).before (k z) t) s).setComp h
            (some made))) ∧
  (∀ (s : State) (h : Head) (st : StepRecord) (c : ControlSection) (e : EndpointSection) (n : SweepRecord),
    (controlZones h st c e n s).comp h ≠ none) ∧
  (∀ (s u : State) (h : Head) (z : Zone) (p : Nat) (k : Correction),
    u = (if k.clamped then occurrenceWith takingRunInClose .limitReached (.limit h z k.unclamped) s else s) →
    (k.after = p → correctZone h z p k s = u) ∧
    (k.after ≠ p → correctZone h z p k s = writeSlot (.head h (.zone z)) k.after
      (u.setSeq h { u.seq h with commanded := (u.seq h).commanded.set (.zone z) (some k.after) }))) ∧
  (∀ (s : State) (h : Head) (st : StepRecord) (e : EndpointSection) (n : SweepRecord) (z : Zone),
    ((e.zones.get z).target = none ∨ n.zones.get z = none ∨ (s.seq h).cleared.get z = true →
      visitZone h st e n s z = s) ∧
    (∀ target m, (e.zones.get z).target = some target → n.zones.get z = some m → (s.seq h).cleared.get z = false →
      (target + e.margin < m.mean →
        visitZone h st e n s z = s.setSeq h { s.seq h with confirm := (s.seq h).confirm.set z 0 }) ∧
      (m.mean ≤ target + e.margin → (s.seq h).confirm.get z + 1 < e.confirm →
        visitZone h st e n s z =
          s.setSeq h { s.seq h with confirm := (s.seq h).confirm.set z ((s.seq h).confirm.get z + 1) }) ∧
      (∀ u, m.mean ≤ target + e.margin → e.confirm ≤ (s.seq h).confirm.get z + 1 →
        u = queueEvent .zoneCleared (some h) [BitVec.ofNat 32 (zoneCode z)] (s.setSeq h { s.seq h with
          confirm := (s.seq h).confirm.set z ((s.seq h).confirm.get z + 1)
          cleared := (s.seq h).cleared.set z true }) →
        ((e.zones.get z).cleared = none → visitZone h st e n s z = u) ∧
        (∀ p v, (e.zones.get z).cleared = some p →
          v = clampNat (st.bounds.get (.zone z)).lo (st.bounds.get (.zone z)).hi p →
          ((s.seq h).commanded.get (.zone z) = some v → visitZone h st e n s z = u) ∧
          ((s.seq h).commanded.get (.zone z) ≠ some v → visitZone h st e n s z =
            writeSlot (.head h (.zone z)) v (u.setSeq h { u.seq h with
              commanded := (u.seq h).commanded.set (.zone z) (some v) })))))) ∧
  (∀ (s : State) (h : Head) (st : StepRecord) (n : SweepRecord),
    (st.endpoint = none → evaluateEndpoint h st n s = (s, false)) ∧
    (∀ e t, st.endpoint = some e → t = [Zone.z1, .z2, .z3, .z4, .z5, .z6].foldl (visitZone h st e n) s →
      ((t.seq h).cleared ≠ (s.seq h).cleared ∧
          (∀ z, (e.zones.get z).target ≠ none → (t.seq h).cleared.get z = true) →
        evaluateEndpoint h st n s = (queueEvent .headEndpoint (some h) [] t, true)) ∧
      (¬((t.seq h).cleared ≠ (s.seq h).cleared ∧
          (∀ z, (e.zones.get z).target ≠ none → (t.seq h).cleared.get z = true)) →
        evaluateEndpoint h st n s = (t, false)))) ∧
  (∀ (s : State) (h : Head) (n : SweepRecord),
    ((s.seq h).state ∉ [HeadState.polishing, .paused] → handClose h n s = s) ∧
    ((s.seq h).state = .paused → handClose h n s = s.setSeq h { s.seq h with
      current := (s.seq h).current.map fun c => { c with sweeps := n.number } }) ∧
    (∀ st, (s.seq h).state = .polishing → s.currentStep h = some st →
      ∃ t u v w reached, t = s.setSeq h { s.seq h with
          current := (s.seq h).current.map fun c => { c with sweeps := n.number }
          gap := if st.control ≠ none ∨ st.endpoint ≠ none then
            some (s.base.time + BitVec.ofNat 32 s.lim.sampleGapTimeout) else (s.seq h).gap } ∧
        evaluateEndpoint h st n t = (u, reached) ∧
        (∀ c e, st.control = some c → st.endpoint = some e → v = controlZones h st c e n u) ∧
        (st.control = none ∨ st.endpoint = none → v = u) ∧
        w = (if reached = true ∧ st.endMode ≠ .time then endStep h .endpoint v else v) ∧
        handClose h n s = (if (s.source .limitReached).state ≠ .served ∧ (w.source .limitReached).state = .served then
          applyAction .limitReached w else w)))

/-- The conversion of a raw value through calibration points whose raw values rise strictly and whose thicknesses lie
in 0 to 200,000: below the first and above the last point it gives theirs, between two points the interpolation
truncated toward zero, which lies between their thicknesses, and at a point the point's thickness exactly (R35). -/
def Obligations.ConversionFollowsThePoints : Prop :=
  ∀ (points : List CalPoint) (raw : Nat),
    (points.map CalPoint.raw).Pairwise (· < ·) → (∀ p ∈ points, p.thick ≤ 200000) →
    (∀ p ∈ points, convertRaw points p.raw = p.thick) ∧
    (∀ p rest, points = p :: rest → raw ≤ p.raw → convertRaw points raw = p.thick) ∧
    (∀ p, points.getLast? = some p → p.raw ≤ raw → convertRaw points raw = p.thick) ∧
    (∀ k p q, points[k]? = some p → points[k + 1]? = some q → p.raw ≤ raw → raw < q.raw →
      (convertRaw points raw : Int) =
        p.thick + Int.tdiv (((raw : Int) - p.raw) * ((q.thick : Int) - p.thick)) ((q.raw : Int) - p.raw)) ∧
    (∀ k p q, points[k]? = some p → points[k + 1]? = some q → p.raw ≤ raw → raw ≤ q.raw →
      min p.thick q.thick ≤ convertRaw points raw ∧ convertRaw points raw ≤ max p.thick q.thick)

/-! ## Conditions -/

/-- Taking: a run takes an enabled PENDING source whose severity exceeds L, the most severe, and among equals the
lowest numbered; the taking pushes L, makes L the severity and the source SERVED, and queues CONDITION_TAKEN unless it
resets the station; and when a run ends, no such source is left (R143, R145). That the CONDITION_TAKEN record counts three
data values for every source is DEDUCED from R198 (log 23).
What brings a source there, enabled or not: an occurrence makes an IDLE source PENDING with its data, and a taking run
follows; a PENDING or SERVED source stays as it is, with the data it has. The real presence of a level source is set when
its beginning is reported; a source that was not simulated either becomes PENDING with the data of the report, and a taking
run follows; one that is simulated keeps its state and data, and one that was really present changes in nothing. The
report of its loss starts no run: it makes the source IDLE without data unless it is simulated (R140, R141). -/
def Obligations.TakingRunsTakeTheMostSevere : Prop :=
  (∀ (s : State) (k : SourceId), nextTaken s = some k →
    (s.source k).enabled = true ∧ (s.source k).state = .pending ∧ s.cu.level < (s.source k).severity ∧
    ∀ j, takeable s j = true → (s.source j).severity < (s.source k).severity ∨
      ((s.source j).severity = (s.source k).severity ∧ sourceNumber k ≤ sourceNumber j)) ∧
  (∀ (s : State) (k : SourceId),
    (takeSource k s).cu.level = (s.source k).severity ∧ (takeSource k s).cu.stack = s.cu.stack ++ [s.cu.level] ∧
    (takeSource k s).source k = { s.source k with state := .served } ∧
    (∀ j, j ≠ k → (takeSource k s).source j = s.source j) ∧
    (takeSource k s).mgmt =
      (if (s.source k).action = .reset ∧ s.mgmt.mode = .active then s
        else queueEvent .conditionTaken (scopeHead k (s.source k).data) (takenData k (s.source k) s.cu.level) s).mgmt ∧
    { takeSource k s with cu := s.cu, mgmt := s.mgmt } = s) ∧
  (∀ s : State, nextTaken (takingRun s) = none) ∧
  (∀ (run : State → State) (k : SourceId) (d : SourceData) (s : State),
    ((s.source k).state = .idle →
      occurrenceWith run k d s = run (s.setSource k { s.source k with state := .pending, data := some d })) ∧
    ((s.source k).state ≠ .idle → occurrenceWith run k d s = s)) ∧
  (∀ (run : State → State) (k : SourceId) (d : Option SourceData) (s : State),
    ((s.source k).real = true → beginPresenceWith run k d s = s) ∧
    ((s.source k).real = false → (s.source k).sim = true →
      beginPresenceWith run k d s = s.setSource k { s.source k with real := true }) ∧
    ((s.source k).real = false → (s.source k).sim = false →
      beginPresenceWith run k d s =
        run (s.setSource k { s.source k with real := true, state := .pending, data := d }))) ∧
  (∀ (k : SourceId) (s : State),
    (∀ d, occurrence k d s = occurrenceWith takingRun k d s) ∧
    (∀ d, beginPresence k d s = beginPresenceWith takingRun k d s) ∧
    losePresence k s = s.setSource k (withoutPresence (s.source k)))

/-- What the action of a taken source does: NOTE nothing, and RESET nothing here (a station in TRANSPARENT mode); PAUSE
pauses the polishing heads of its scope and moves nothing else; HOLD of a station-scope source begins station hold, and HOLD
brings every head of its scope that waits, polishes or is paused into HOLD with stopped timers and hold pressures, and no
other head. A HOLD of one head leaves the station hold flag, and the other head as it was, or polishing when it waited and
the pad that the held head gives up comes to it; of a head that is not in a step it changes nothing (R22, R23, R74, R78,
R146, R147, R148). -/
def Obligations.ActionsMoveTheHeads : Prop :=
  ∀ (s : State) (k : SourceId),
    ((s.source k).action = .note ∨ (s.source k).action = .reset → applyAction k s = s) ∧
    ((s.source k).action = .pause →
      (∀ h, (scopeHead k (s.source k).data = some h ∨ scopeHead k (s.source k).data = none) →
        (s.seq h).state = .polishing → (applyAction k s).seq h = (pauseHead h s).seq h) ∧
      (∀ h, (scopeHead k (s.source k).data = some h.other ∨ (s.seq h).state ≠ .polishing) →
        (applyAction k s).seq h = s.seq h) ∧
      { applyAction k s with seqs := s.seqs } = s) ∧
    ((s.source k).action = .hold →
      (∀ h, (scopeHead k (s.source k).data = some h ∨ scopeHead k (s.source k).data = none) →
        ((s.seq h).state ∈ [HeadState.waitPad, .polishing, .paused] →
          ((applyAction k s).seq h).state = .hold ∧ ((applyAction k s).seq h).timer = .stopped ∧
          ((applyAction k s).seq h).gap = none ∧
          ∀ x, ((applyAction k s).seq h).commanded.get x = some (s.lim.areas.get x).hold) ∧
        ((s.seq h).state ∉ [HeadState.waitPad, .polishing, .paused] → (applyAction k s).seq h = s.seq h)) ∧
      (∀ h, scopeHead k (s.source k).data = some h →
        (applyAction k s).arb.hold = s.arb.hold ∧
        ((s.seq h.other).state ≠ .waitPad → (applyAction k s).seq h.other = s.seq h.other) ∧
        ((s.seq h.other).state = .waitPad →
          (applyAction k s).seq h.other = s.seq h.other ∨
          (((applyAction k s).seq h.other).state = .polishing ∧
            ∃ g, s.arb.service = some g ∧ g.holders.get h = true ∧ g.holders.get h.other = false ∧
              (s.arb.waiting.map Prod.fst).head? = some h.other ∧
              (applyAction k s).arb.service.map Grant.holders = some (Pair.set ⟨false, false⟩ h.other true))) ∧
        ((s.seq h).state ∉ [HeadState.waitPad, .polishing, .paused] → applyAction k s = s) ∧
        ((s.seq h).state = .waitPad ∨ (∀ g, s.arb.service = some g → g.holders.get h = false) →
          (applyAction k s).arb.service = s.arb.service ∧ (applyAction k s).seq h.other = s.seq h.other ∧
          (applyAction k s).dose = s.dose ∧ (applyAction k s).cdr = s.cdr ∧ (applyAction k s).mgmt = s.mgmt)) ∧
      (scopeHead k (s.source k).data = none → (applyAction k s).arb.hold = true ∧
        (s.arb.hold = false → (applyAction k s).arb.service = none ∧ (applyAction k s).cdr.run = none ∧
          (applyAction k s).mgmt = (queueEvent .stationHold none [] s).mgmt)) ∧
      (applyAction k s).cu = s.cu ∧ (applyAction k s).steps = s.steps ∧ (applyAction k s).store = s.store ∧
      (applyAction k s).fmap = s.fmap ∧ keepsPorts s (applyAction k s) ∧ keepsBase s (applyAction k s))

/-- SET_SOURCE replaces the settings of a source and a taking run follows; the severity of a special source stays, and
the tool may not disable one. CLEAR_SOURCE makes an edge source IDLE without data and clears the simulation flag of a
level source, which becomes IDLE when it is not really present. SIMULATE_SOURCE, for the interlock alone, is an
occurrence of an edge source and sets the flag of a level source; its head counts for LIMIT_REACHED alone. INVALID are: a
source outside 1 to 16; in SET_SOURCE an enable other than yes or no, for sources 3 to 16 a severity outside 1 to 15 or an
action other than NOTE, PAUSE or HOLD, for sources 1 and 2 an action other than HOLD or RESET, which is checked before the
origin; in SIMULATE_SOURCE LIMIT_REACHED without a head of A or B, checked after the origin (R140, R141, R150, R151, R152).
Free transmitters choose at the step's end: the model's choice (log 10). -/
def Obligations.SourceRequests : Prop :=
  (∀ (r : Request) (s : State) (b : Byte), Admitted r s → b = 0 ∨ 16 < b.toNat →
    (∀ en sev act, r.args = [b, en, sev, act] → exec (.setSource r) s = completes r .invalid [] (served r s)) ∧
    (r.args = [b] → exec (.clearSource r) s = completes r .invalid [] (served r s)) ∧
    (∀ hb hi lo, r.args = [b, hb, hi, lo] → exec (.simulateSource r) s =
      completes r (if r.origin = 0 then .origin else .invalid) [] (served r s))) ∧
  (∀ (r : Request) (s : State) (k : SourceId) (en sev act : Byte), Admitted r s →
    r.args = [BitVec.ofNat 8 (sourceNumber k), en, sev, act] →
    1 < en.toNat ∨
      (isSpecial k = false ∧ (sev = 0 ∨ 15 < sev.toNat ∨
        ∀ a : Action, a ≠ .reset → act ≠ BitVec.ofNat 8 (actionCode a))) ∨
      (isSpecial k = true ∧
        act ≠ BitVec.ofNat 8 (actionCode .hold) ∧ act ≠ BitVec.ofNat 8 (actionCode .reset)) →
    exec (.setSource r) s = completes r .invalid [] (served r s)) ∧
  (∀ (r : Request) (s : State) (hb hi lo : Byte), Admitted r s → r.origin = 62 →
    r.args = [BitVec.ofNat 8 (sourceNumber .limitReached), hb, hi, lo] → hb ≠ 1 → hb ≠ 2 →
    exec (.simulateSource r) s = completes r .invalid [] (beginRequest s)) ∧
  ∀ (r : Request) (s : State) (k : SourceId), Admitted r s →
    (∀ (en : Bool) (sev : Nat) (a : Action), isSpecial k = false → 1 ≤ sev → sev ≤ 15 → a ≠ .reset →
      r.args = [BitVec.ofNat 8 (sourceNumber k), if en then 1 else 0, BitVec.ofNat 8 sev, BitVec.ofNat 8 (actionCode a)] →
      exec (.setSource r) s = .next (settle (respond r.origin r.tag
        { outcome := .done, results := r.args.drop 1 }
        (takingRun ((served r s).setSource k
          { (served r s).source k with enabled := en, severity := sev, action := a }))))) ∧
    (∀ (en : Bool) (sev : Byte) (a : Action), isSpecial k = true → a = .hold ∨ a = .reset →
      r.args = [BitVec.ofNat 8 (sourceNumber k), if en then 1 else 0, sev, BitVec.ofNat 8 (actionCode a)] →
      (r.origin = 62 ∨ en = true →
        exec (.setSource r) s = .next (settle (respond r.origin r.tag
          { outcome := .done
            results := [if en then 1 else 0, BitVec.ofNat 8 (s.source k).severity, BitVec.ofNat 8 (actionCode a)] }
          (takingRun ((served r s).setSource k { (served r s).source k with enabled := en, action := a }))))) ∧
      (r.origin = 0 → en = false → exec (.setSource r) s = completes r .origin [] (served r s))) ∧
    (r.args = [BitVec.ofNat 8 (sourceNumber k)] →
      (isLevel k = false → exec (.clearSource r) s = completes r .done []
        ((served r s).setSource k { s.source k with state := .idle, data := none })) ∧
      (isLevel k = true → r.origin = 62 → (s.source k).sim = false →
        exec (.clearSource r) s = completes r .done [] (beginRequest s)) ∧
      (isLevel k = true → r.origin = 62 → (s.source k).sim = true → (s.source k).real = true →
        exec (.clearSource r) s = completes r .done []
          ((beginRequest s).setSource k { s.source k with sim := false })) ∧
      (isLevel k = true → r.origin = 62 → (s.source k).sim = true → (s.source k).real = false →
        exec (.clearSource r) s = completes r .done []
          ((beginRequest s).setSource k { s.source k with sim := false, state := .idle, data := none })) ∧
      (isLevel k = true → r.origin = 0 →
        exec (.clearSource r) s = completes r .done []
          (if ((served r s).source k).sim then endSimulation k (served r s) else served r s))) ∧
    (∀ (h : Head) (hb hi lo : Byte), (k = .limitReached → hb = BitVec.ofNat 8 (headCode h)) →
      r.args = [BitVec.ofNat 8 (sourceNumber k), hb, hi, lo] →
      (r.origin = 0 → exec (.simulateSource r) s = completes r .origin [] (served r s)) ∧
      (r.origin = 62 → isLevel k = false → (s.source k).state ≠ .idle →
        exec (.simulateSource r) s = completes r .done [] (beginRequest s)) ∧
      (r.origin = 62 → isLevel k = false → (s.source k).state = .idle →
        exec (.simulateSource r) s = .next (settle (respond r.origin r.tag { outcome := .done, results := [] }
          (takingRun ((beginRequest s).setSource k { s.source k with
            state := .pending
            data := some (.simulated (if k = .limitReached then some h else none) (hi.toNat * 256 + lo.toNat)) }))))) ∧
      (r.origin = 62 → isLevel k = true → (s.source k).sim = true →
        exec (.simulateSource r) s = completes r .done [] (beginRequest s)) ∧
      (r.origin = 62 → isLevel k = true → (s.source k).sim = false → (s.source k).real = true →
        exec (.simulateSource r) s = completes r .done []
          ((beginRequest s).setSource k { s.source k with sim := true })) ∧
      (r.origin = 62 → isLevel k = true → (s.source k).sim = false → (s.source k).real = false →
        exec (.simulateSource r) s = .next (settle (respond r.origin r.tag { outcome := .done, results := [] }
          (takingRun ((beginRequest s).setSource k { s.source k with
            sim := true, state := .pending
            data := some (.simulated none (hi.toNat * 256 + lo.toNat)) }))))))

/-- SET_LEVEL of 0 to 15 (of more it is INVALID) sets L, from the tool at most to 10, and empties the stack;
RESUME_LEVEL takes the top of the stack as L, and with an empty stack is refused SEQUENCE. At a fall of L every SERVED
level source that is present and lies above the new L becomes PENDING with its data, no other source moves, and a
taking run follows; the response carries the level set (R144, R154, R155). Free transmitters choose at the step's end:
the model's choice (log 10). -/
def Obligations.LevelRequests : Prop :=
  (∀ (r : Request) (s : State), Admitted r s →
    (∀ b, r.args = [b] → 15 < b.toNat → exec (.setLevel r) s = completes r .invalid [] (served r s)) ∧
    (∀ v : Nat, v ≤ 15 → r.args = [BitVec.ofNat 8 v] →
      exec (.setLevel r) s =
        (let l := if r.origin = 0 then min v 10 else v
         let t := { served r s with cu := { (served r s).cu with level := l, stack := [] } }
         .next (settle (respond r.origin r.tag { outcome := .done, results := [BitVec.ofNat 8 l] }
          (if l < s.cu.level then takingRun (repend t) else t))))) ∧
    (r.args = [] → s.cu.stack = [] → exec (.resumeLevel r) s = completes r .sequence [] (served r s)) ∧
    (∀ lower top, r.args = [] → s.cu.stack = lower ++ [top] →
      exec (.resumeLevel r) s =
        (let t := { served r s with cu := { (served r s).cu with level := top, stack := lower } }
         .next (settle (respond r.origin r.tag { outcome := .done, results := [BitVec.ofNat 8 top] }
          (if top < s.cu.level then takingRun (repend t) else t)))))) ∧
  (∀ (s : State) (k : SourceId),
    (repend s).source k =
      { s.source k with
        state := if isLevel k = true ∧ (s.source k).state = .served ∧ ((s.source k).real = true ∨ (s.source k).sim = true) ∧
              s.cu.level < (s.source k).severity then .pending
          else (s.source k).state } ∧
    { repend s with cu := { (repend s).cu with sources := s.cu.sources } } = s)

/-- RELEASE_HOLD is refused ORIGIN from the tool while L is above 10; accepted with the flag off it changes nothing,
with the flag on and no head waiting it clears the flag, queues HOLD_RELEASED and writes the idle values, and with a
head waiting it ends the hold by a grant. Of two waiting heads the first is granted; the second joins when it waits for the
same entry, with PAD_GRANTED, dosing for two holders and POLISHING entry of its own, and else it waits on as the one waiting
head. ABORT_ALL, for the interlock alone, begins station hold, frees the pad,
aborts every working head and no other, and leaves L at 15 over an empty stack (R24, R73, R78, R79, R156, R157). Free
transmitters choose at the step's end: the model's choice (log 10). -/
def Obligations.HoldRequests : Prop :=
  ∀ (r : Request) (s : State), Admitted r s → r.args = [] →
    (r.origin = 0 → 10 < s.cu.level → exec (.releaseHold r) s = completes r .origin [] (served r s)) ∧
    (r.origin = 62 ∨ s.cu.level ≤ 10 →
      (s.arb.hold = false → exec (.releaseHold r) s = completes r .done [] (served r s)) ∧
      (s.arb.hold = true → s.arb.waiting = [] → exec (.releaseHold r) s = completes r .done []
        (writeIdleValues (queueEvent .holdReleased none []
          { served r s with arb := { s.arb with hold := false } }))) ∧
      (∀ h e, s.arb.hold = true → s.arb.waiting = [(h, e)] → (s.seq h).state ≠ .waitPad →
        ∃ t, exec (.releaseHold r) s = completes r .done [] t ∧ t.arb.hold = false ∧ t.arb.waiting = [] ∧
          t.arb.service = some { entry := e, holders := Pair.set ⟨false, false⟩ h true, time := s.base.time } ∧
          t.seqs = s.seqs) ∧
      (∀ h e, s.arb.hold = true → s.arb.waiting = [(h, e)] → (s.seq h).state = .waitPad →
        s.currentStep h ≠ none →
        ∃ t, exec (.releaseHold r) s = completes r .done [] t ∧ t.arb.hold = false ∧ t.arb.waiting = [] ∧
          t.arb.service = some { entry := e, holders := Pair.set ⟨false, false⟩ h true, time := s.base.time } ∧
          (t.seq h).state = .polishing ∧ t.seq h.other = s.seq h.other) ∧
      (∀ h e e' st, s.arb.hold = true → s.arb.waiting = [(h, e), (h.other, e')] →
        (s.seq h).state = .waitPad → (s.seq h.other).state = .waitPad →
        s.currentStep h = some st → s.currentStep h.other ≠ none →
        ∃ t, exec (.releaseHold r) s = completes r .done [] t ∧ t.arb.hold = false ∧ t.arb.table = s.arb.table ∧
          (t.seq h).state = .polishing ∧
          (t.seq h).timer = .running (s.base.time + BitVec.ofNat 32 st.limit) ∧
          (e' ≠ e →
            t.arb.waiting = [(h.other, e')] ∧ t.seq h.other = s.seq h.other ∧
            t.arb.service = some { entry := e, holders := Pair.set ⟨false, false⟩ h true, time := s.base.time } ∧
            t.dose.current = some (entryDose s e 1) ∧
            t.mgmt = (queueEvent .padGranted (some h) [BitVec.ofNat 32 e, 1]
              (queueEvent .holdReleased none [] (served r s))).mgmt) ∧
          (∀ st', e' = e → s.currentStep h.other = some st' →
            t.arb.waiting = [] ∧ (t.seq h.other).state = .polishing ∧
            (t.seq h.other).timer = .running (s.base.time + BitVec.ofNat 32 st'.limit) ∧
            t.arb.service = some { entry := e, holders := ⟨true, true⟩, time := s.base.time } ∧
            t.dose.current = some (entryDose s e 2) ∧
            t.mgmt = (queueEvent .padGranted (some h.other) [BitVec.ofNat 32 e, 2]
              (queueEvent .padGranted (some h) [BitVec.ofNat 32 e, 1]
                (queueEvent .holdReleased none [] (served r s)))).mgmt))) ∧
    (r.origin = 0 → exec (.abortAll r) s = completes r .origin [] (served r s)) ∧
    (r.origin = 62 → ∃ t, exec (.abortAll r) s = completes r .done [] t ∧
      t.cu.level = 15 ∧ t.cu.stack = [] ∧ t.cu.sources = s.cu.sources ∧ t.arb.hold = true ∧
      (s.arb.hold = false → t.arb.service = none ∧ t.cdr.run = none) ∧
      (∀ h, headWorking s h = true → (t.seq h).state = .aborted ∧ (t.seq h).timer = .stopped ∧ (t.seq h).gap = none) ∧
      (∀ h, headWorking s h = false → t.seq h = s.seq h) ∧
      ((s.arb.hold = true → s.arb.service = none) → t.samplers = s.samplers ∧ t.comps = s.comps) ∧
      t.steps = s.steps ∧ keepsPorts s t ∧ t.fmap = s.fmap ∧ t.store = s.store ∧ t.base = s.base)

/-! ## Parameter store and resets -/

/-- STORE_STAGE puts well-formed contents into the staging area with the origin of the request, and is refused ORIGIN
for WEAR and for the tool's PROTECT, PROTECTED for a protected record, INVALID for ill-formed contents. STORE_COMMIT
moves what is staged for the record into the idle engine, and is refused in the order ORIGIN, SEQUENCE, BUSY,
PROTECTED. STORE_RELOAD sets the working copies from the records and discards the open sweeps. COMMIT_COMPLETION makes
the record VALID with the programmed contents, queues STORE_COMMITTED, and leaves the engine IDLE or starts the
pending WEAR write. STORE_STAGE and STORE_COMMIT of another name are INVALID (R187, R188, R189, R191). -/
def Obligations.StoreWritesAndReloads : Prop :=
  (∀ (r : Request) (s : State), Admitted r s →
    (∀ ps, wholeWalk stageArgs r.args = some (.sensorCal ps) →
      (s.store.protect.sensor = true → exec (.storeStage r) s = completes r .protected_ [] (served r s)) ∧
      (s.store.protect.sensor = false → ¬((∀ p ∈ ps, p.thick ≤ 200000) ∧ (ps.map CalPoint.raw).Pairwise (· < ·)) →
        exec (.storeStage r) s = completes r .invalid [] (served r s)) ∧
      (s.store.protect.sensor = false → (∀ p ∈ ps, p.thick ≤ 200000) → (ps.map CalPoint.raw).Pairwise (· < ·) →
        exec (.storeStage r) s = completes r .done [] { served r s with store := { s.store with
          staged := some { contents := .sensorCal ps, origin := if r.origin = 0 then .tool else .interlock } } })) ∧
    (∀ os, wholeWalk stageArgs r.args = some (.channelCal os) →
      (s.store.protect.channel = true → exec (.storeStage r) s = completes r .protected_ [] (served r s)) ∧
      (s.store.protect.channel = false → (∃ f, PerFn.get os f < -2000 ∨ 2000 < PerFn.get os f) →
        exec (.storeStage r) s = completes r .invalid [] (served r s)) ∧
      (s.store.protect.channel = false → (∀ f, -2000 ≤ PerFn.get os f ∧ PerFn.get os f ≤ 2000) →
        exec (.storeStage r) s = completes r .done [] { served r s with store := { s.store with
          staged := some { contents := .channelCal os, origin := if r.origin = 0 then .tool else .interlock } } })) ∧
    (∀ w, wholeWalk stageArgs r.args = some (.wear w) →
      exec (.storeStage r) s = completes r .origin [] (served r s)) ∧
    (∀ a b, wholeWalk stageArgs r.args = some (.protect a b) →
      (r.origin = 0 → exec (.storeStage r) s = completes r .origin [] (served r s)) ∧
      (r.origin = 62 → ¬(a ≤ 1 ∧ b ≤ 1) → exec (.storeStage r) s = completes r .invalid [] (served r s)) ∧
      (r.origin = 62 → a ≤ 1 → b ≤ 1 →
        exec (.storeStage r) s = completes r .done [] { served r s with store := { s.store with
          staged := some { contents := .protect { sensor := decide (a = 1), channel := decide (b = 1) }
                           origin := .interlock } } })) ∧
    (∀ b rest, r.args = b :: rest → b = 0 ∨ 4 < b.toNat →
      exec (.storeStage r) s = completes r .invalid [] (served r s)) ∧
    (∀ b, r.args = [b] → b = 0 ∨ 4 < b.toNat → exec (.storeCommit r) s = completes r .invalid [] (served r s)) ∧
    (∀ x, r.args = [BitVec.ofNat 8 (recordCode x)] →
      (r.origin = 0 → x = .protect → exec (.storeCommit r) s = completes r .origin [] (served r s)) ∧
      (r.origin = 62 ∨ x ≠ .protect →
        ((∀ w, s.store.staged = some w → w.contents.record ≠ x) →
          exec (.storeCommit r) s = completes r .sequence [] (served r s)) ∧
        (∀ w, s.store.staged = some w → w.contents.record = x →
          (s.store.engine ≠ none → exec (.storeCommit r) s = completes r .busy [] (served r s)) ∧
          (s.store.engine = none →
            ((x = .sensorCal ∧ s.store.protect.sensor = true) ∨ (x = .channelCal ∧ s.store.protect.channel = true) →
              exec (.storeCommit r) s = completes r .protected_ [] (served r s)) ∧
            (¬((x = .sensorCal ∧ s.store.protect.sensor = true) ∨
                (x = .channelCal ∧ s.store.protect.channel = true)) →
              exec (.storeCommit r) s = completes r .done []
                { served r s with store := { s.store with engine := some w, staged := none } }))))) ∧
    (r.args = [] →
      (anyHeadWorking s = true → exec (.storeReload r) s = completes r .state [] (served r s)) ∧
      (anyHeadWorking s = false → s.store.engine ≠ none →
        exec (.storeReload r) s = completes r .busy [] (served r s)) ∧
      (anyHeadWorking s = false → s.store.engine = none →
        ∃ t, exec (.storeReload r) s = completes r .done
            [BitVec.ofNat 8 (storedCode s.store.sensorRec), BitVec.ofNat 8 (storedCode s.store.channelRec),
             BitVec.ofNat 8 (storedCode s.store.protectRec)] t ∧
          t.store = { s.store with
            cal := validContents s.store.sensorRec
            offsets := (validContents s.store.channelRec).getD (PerFn.fill 0)
            protect := (validContents s.store.protectRec).getD { sensor := false, channel := false } } ∧
          (∀ h, t.sampler h = { s.sampler h with openSweep := none }) ∧
          { t with store := s.store, samplers := s.samplers } = served r s))) ∧
  (∀ s : State, isRunning s = true →
    (∀ w, s.store.engine = some w →
      ∃ t, exec .commitCompletion s = .next (settle t) ∧
        t.store.sensorRec = (match w.contents with | .sensorCal c => .valid c | _ => s.store.sensorRec) ∧
        t.store.channelRec = (match w.contents with | .channelCal c => .valid c | _ => s.store.channelRec) ∧
        t.store.wearRec = (match w.contents with | .wear c => .valid c | _ => s.store.wearRec) ∧
        t.store.protectRec = (match w.contents with | .protect c => .valid c | _ => s.store.protectRec) ∧
        t.store.engine = (if s.store.wearPending then
          some { contents := .wear s.store.live, origin := .internal } else none) ∧
        t.store.wearPending = false ∧ t.store.cal = s.store.cal ∧ t.store.offsets = s.store.offsets ∧
        t.store.protect = s.store.protect ∧ t.store.live = s.store.live ∧ t.store.staged = s.store.staged ∧
        t.mgmt = (queueEvent .storeCommitted none
          [BitVec.ofNat 32 (recordCode w.contents.record), BitVec.ofNat 32 (writeOriginCode w.origin)] s).mgmt ∧
        { t with store := s.store, mgmt := s.mgmt } = s))

/-- What STORE_READ and READ_LIMITS send is what STORE_STAGE and WRITE_LIMITS read: the bytes of a limit block that
keeps R172, and of contents of the four records that keep R183, are read back as that block and those contents (R172, R183,
R197). That a list of fixed length carries no count byte is the model's choice (log 15). -/
def Obligations.WhatIsSentIsReadBack : Prop :=
  (∀ l : LimitBlock, limitsOk l = true → wholeWalk limitsArgs (limitBytes l) = some l) ∧
  (∀ ps : List CalPoint, ps.length = 16 → (∀ p ∈ ps, p.raw ≤ 65535 ∧ p.thick ≤ 200000) →
    wholeWalk stageArgs (BitVec.ofNat 8 (recordCode .sensorCal) :: contentBytes (.sensorCal ps)) =
      some (.sensorCal ps)) ∧
  (∀ os : PerFn Int, (∀ f, -2000 ≤ PerFn.get os f ∧ PerFn.get os f ≤ 2000) →
    wholeWalk stageArgs (BitVec.ofNat 8 (recordCode .channelCal) :: contentBytes (.channelCal os)) =
      some (.channelCal os)) ∧
  (∀ w : Wear, WearOk w →
    wholeWalk stageArgs (BitVec.ofNat 8 (recordCode .wear) :: contentBytes (.wear w)) = some (.wear w)) ∧
  (∀ p : Protect, wholeWalk stageArgs (BitVec.ofNat 8 (recordCode .protect) :: contentBytes (.protect p)) =
      some (.protect (if p.sensor then 1 else 0) (if p.channel then 1 else 0)))

/-- STATION_RESET is refused ORIGIN from the tool while L is above 10. Else every block takes the reset: what R180
lets go is gone, tables, assignments, limit block, store and link states are kept, the mode is TRANSPARENT, the
STATION_RESET record carries cause REQUEST with the origin, and the response is held back. With Port D ONLINE and
nothing worn that record is the one event, and no source is present (R29, R50, R69, R85, R99, R118, R134, R159, R179,
R180, R193). That the record [1, origin, 0] counts three data values is DEDUCED from R198 (log 23).
Free transmitters choose at the step's end: the model's choice (log 10). -/
def Obligations.StationResetClearsTheStation : Prop :=
  ∀ (r : Request) (s : State), Admitted r s → r.args = [] →
    (r.origin = 0 → 10 < s.cu.level → exec (.stationReset r) s = completes r .origin [] (served r s)) ∧
    (r.origin = 62 ∨ s.cu.level ≤ 10 → ∃ t, exec (.stationReset r) s = .next (settle t) ∧
      (∀ h, t.seq h =
        { state := if (s.seq h).program.isSome then .ready else .empty, program := (s.seq h).program, position := none
          timer := .stopped, gap := none, confirm := PerZone.fill 0, cleared := PerZone.fill false
          commanded := PerArea.fill none, results := [], current := none }) ∧
      (∀ h, t.sampler h = { zoneMap := (s.sampler h).zoneMap, openSweep := none, counter := 0, history := [] }) ∧
      (∀ h, t.comp h = none) ∧ t.steps = s.steps ∧
      t.arb.table = s.arb.table ∧ t.arb.service = none ∧ t.arb.waiting = [] ∧
      t.dose = { s.dose with current := none } ∧
      t.cdr.programs = s.cdr.programs ∧ t.cdr.run = none ∧ t.cdr.padRem = s.cdr.padRem ∧
      t.cdr.diskRem = s.cdr.diskRem ∧ t.cdr.padWorn = padIsWorn s ∧ t.cdr.diskWorn = diskIsWorn s ∧
      (∀ f, t.fn f = { s.fn f with echo := 0, dev := .inBand, clamped := false }) ∧
      t.fmap.sensor = s.fmap.sensor ∧ (∀ f, t.slots.get f = none) ∧ t.fwd = { down := [], up := [] } ∧
      t.portU = { s.portU with tx := .free } ∧ t.portD = { s.portD with tx := .free } ∧ t.store = s.store ∧
      t.base = s.base ∧ t.pending = s.pending ∧
      t.mgmt.mode = .transparent ∧ t.mgmt.requests = [] ∧ t.mgmt.responses = [] ∧ t.mgmt.supTimer = none ∧
      t.mgmt.supLoss = false ∧ t.mgmt.limits = s.mgmt.limits ∧ t.mgmt.dropped = false ∧
      t.mgmt.heldBack = some { dest := r.origin, tag := r.tag, outcome := .done, results := [] } ∧
      { kind := .stationReset, head := none, time := s.base.time, data := [1, BitVec.ofNat 32 r.origin, 0]
        droppedBefore := false } ∈ t.mgmt.events ∧
      (∀ k, (t.source k).enabled = (s.source k).enabled ∧ (t.source k).severity = (s.source k).severity ∧
        (t.source k).action = (s.source k).action ∧ (t.source k).sim = false) ∧
      (s.portD.link = .online → padIsWorn s = false → diskIsWorn s = false →
        t.mgmt.events = [{ kind := .stationReset, head := none, time := s.base.time
                           data := [1, BitVec.ofNat 32 r.origin, 0], droppedBefore := false }] ∧
        t.cu.level = 0 ∧ t.cu.stack = [] ∧ t.arb.hold = false ∧
        ∀ k, (t.source k).state = .idle ∧ (t.source k).data = none ∧ (t.source k).real = false))

/-- From hardware reset to a running part. HARDWARE_RESET: everything as right after reset but the four stored
records, of which the one being programmed is INVALID; that the waiting commands and the choice counter stay is the
model's choice (log 29), and so are the values that State.reset gives the own address and link rate before the straps are
latched (log 6) and the working copies and live counters before the load (log 7). RESET_RELEASE: own address (61 for straps outside 1 to 61) and link rate are latched, station
time is 0, the load runs. STORE_LOAD_DONE: working copies and live counters come from the records or their defaults,
STORE_FAULT is taken for the first record that is not VALID, PORT_D_LOSS begins and is taken with its HOLD action, and
STARTED is queued last. Out of their phase the last two are no events, the model's choice (log 9) (R135, R136, R137,
R182, R185, R192). Free transmitters choose at the step's end: the model's choice (log 10). -/
def Obligations.HardwareResetToRunning : Prop :=
  ∀ s : State,
    exec .hardwareReset s = .next { State.reset with
      pending := s.pending, choice := s.choice
      store := { State.reset.store with
        sensorRec := if s.store.engine.map (fun w => w.contents.record) = some .sensorCal then .invalid
          else s.store.sensorRec
        channelRec := if s.store.engine.map (fun w => w.contents.record) = some .channelCal then .invalid
          else s.store.channelRec
        wearRec := if s.store.engine.map (fun w => w.contents.record) = some .wear then .invalid
          else s.store.wearRec
        protectRec := if s.store.engine.map (fun w => w.contents.record) = some .protect then .invalid
          else s.store.protectRec } } ∧
    (∀ (straps : BitVec 6) (high : Bool),
      (s.base.phase = .asserted → exec (.resetRelease straps high) s = .next { s with
        base := { phase := .loading, time := 0
                  ownAddr := if 1 ≤ straps.toNat ∧ straps.toNat ≤ 61 then straps.toNat else 61
                  rate := if high then .mbit25 else .mbit10 }
        mgmt := { s.mgmt with mode := .transparent } }) ∧
      (s.base.phase ≠ .asserted → exec (.resetRelease straps high) s = .next s)) ∧
    (s.base.phase ≠ .loading → exec .storeLoadDone s = .next s) ∧
    (s.base.phase = .loading → s.mgmt = State.reset.mgmt → s.cu = State.reset.cu → s.arb = State.reset.arb →
      s.seqs = State.reset.seqs →
      ∃ t, exec .storeLoadDone s = .next (settle t) ∧ t.base = { s.base with phase := .running } ∧
        t.store = { s.store with
          cal := validContents s.store.sensorRec
          offsets := (validContents s.store.channelRec).getD (PerFn.fill 0)
          protect := (validContents s.store.protectRec).getD { sensor := false, channel := false }
          live := (validContents s.store.wearRec).getD { pad := 0, disk := 0, padCount := 0, diskCount := 0, wafers := 0 } } ∧
        (∀ h, t.sampler h = { s.sampler h with openSweep := none }) ∧ t.seqs = s.seqs ∧ t.comps = s.comps ∧
        t.steps = s.steps ∧ t.dose = s.dose ∧ t.cdr = { s.cdr with run := none } ∧ keepsPorts s t ∧
        keepsFunctions s t ∧ t.arb = { s.arb with hold := true } ∧ t.cu.level = 13 ∧
        t.source .portDLoss = { s.source .portDLoss with state := .served, real := true } ∧
        (∀ k, k ≠ .portDLoss → k ≠ .storeFault → t.source k = s.source k) ∧
        (match [RecordName.sensorCal, .channelCal, .wear, .protect].find?
            (fun x => (storedRecord s.store x).2.isNone) with
          | none => t.cu.stack = [0] ∧ t.source .storeFault = s.source .storeFault
          | some x => t.cu.stack = [0, 4] ∧
              t.source .storeFault = { s.source .storeFault with state := .served, data := some (.record x) }) ∧
        t.mgmt.events.getLast? = some
          { kind := .started, head := none, time := s.base.time
            data := [BitVec.ofNat 32 s.base.ownAddr, BitVec.ofNat 32 (rateCode s.base.rate),
              BitVec.ofNat 32 (storedCode s.store.sensorRec * 16777216 + storedCode s.store.channelRec * 65536 +
                storedCode s.store.wearRec * 256 + storedCode s.store.protectRec)]
            droppedBefore := false } ∧
        { t.mgmt with events := [] } = s.mgmt)

/-! ## Invariants -/

/-- Right after reset every invariant below holds: no table, step, program, function, slot, frame, request or record waits,
is loaded or is granted, and the condition unit has its default settings at level 0 (R28, R49, R84, R98, R117, R137, R158,
R181, R192). The store's part rests on the values that the model chose: BLANK records (log 5), and counters of 0 before the
load (log 7). -/
def Obligations.ResetKeepsInvariants : Prop :=
  QueuesBounded State.reset ∧ (∀ h, HistoryOrdered (State.reset.sampler h)) ∧ SettingsOk State.reset.cu ∧
    LevelsOk State.reset.cu ∧ ChannelsDistinct State.reset ∧ StationKept State.reset ∧ StoreKept State.reset ∧
    PadKept State.reset

/-- No queue outgrows its size, no response waits while one is held back, and the sweep histories keep their order:
every step keeps this (R45, R46, R125, R127, R160, R162, R177). -/
def Obligations.StepKeepsQueuesAndHistories : Prop :=
  ∀ s t : State, QueuesBounded s → (∀ h, HistoryOrdered (s.sampler h)) → step s = .next t →
    QueuesBounded t ∧ ∀ h, HistoryOrdered (t.sampler h)

/-- Severities, actions, level and stack of the condition unit keep their ranges and order in every step (R138, R142,
R146). -/
def Obligations.StepKeepsConditionRanges : Prop :=
  ∀ s t : State, SettingsOk s.cu → LevelsOk s.cu → step s = .next t → SettingsOk t.cu ∧ LevelsOk t.cu

/-- The mode rules and the timers of both heads: every step keeps them (R8, R12, R13, R108, R116, R168, R169, R175).
-/
def Obligations.StepKeepsModeAndTimers : Prop :=
  ∀ s t : State, StationKept s → step s = .next t → StationKept t

/-- The ranges of counters and remainders, and what may be staged or marked pending: every step keeps them (R94, R97,
R183, R187, R190). -/
def Obligations.StepKeepsTheStore : Prop := ∀ s t : State, StoreKept s → step s = .next t → StoreKept t

/-- Who holds the pad, who waits for it, and what the conditioner runs: every step keeps the rules of R72. -/
def Obligations.StepKeepsThePad : Prop := ∀ s t : State, PadKept s → step s = .next t → PadKept t
end

