-- ==== Sys2Proof/Laws/Codes.lean ====
section
/-! SUPPORT. Codes and the byte that carries one are read back as what was written. -/

namespace Sys2Proof.Machine

/-- A number below 256 survives its byte. -/
theorem byte_toNat {n : Nat} (h : n < 256) : (BitVec.ofNat 8 n).toNat = n := by
  simpa using Nat.mod_eq_of_lt h

@[simp] theorem byte_headCode (h : Head) : (BitVec.ofNat 8 (headCode h)).toNat = headCode h := by cases h <;> rfl
@[simp] theorem headOfCode_headCode (h : Head) : headOfCode (headCode h) = some h := by cases h <;> rfl

@[simp] theorem byte_zoneCode (z : Zone) : (BitVec.ofNat 8 (zoneCode z)).toNat = zoneCode z := by cases z <;> rfl
@[simp] theorem zoneOfCode_zoneCode (z : Zone) : zoneOfCode (zoneCode z) = some z := by cases z <;> rfl

@[simp] theorem byte_sourceNumber (k : SourceId) : (BitVec.ofNat 8 (sourceNumber k)).toNat = sourceNumber k := by
  cases k <;> rfl
@[simp] theorem sourceOfNumber_sourceNumber (k : SourceId) : sourceOfNumber (sourceNumber k) = some k := by
  cases k <;> rfl

@[simp] theorem byte_recordCode (x : RecordName) : (BitVec.ofNat 8 (recordCode x)).toNat = recordCode x := by
  cases x <;> rfl
@[simp] theorem recordOfCode_recordCode (x : RecordName) : recordOfCode (recordCode x) = some x := by cases x <;> rfl

@[simp] theorem byte_actionCode (a : Action) : (BitVec.ofNat 8 (actionCode a)).toNat = actionCode a := by
  cases a <;> rfl
@[simp] theorem actionOfCode_actionCode (a : Action) : actionOfCode (actionCode a) = some a := by cases a <;> rfl

@[simp] theorem byte_modeCode (m : Mode) : (BitVec.ofNat 8 (modeCode m)).toNat = modeCode m := by cases m <;> rfl
@[simp] theorem modeOfCode_modeCode (m : Mode) : modeOfCode (modeCode m) = some m := by cases m <;> rfl

@[simp] theorem byte_fnCode (f : Fn) : (BitVec.ofNat 8 (fnCode f)).toNat = fnCode f := by
  cases f with
  | head h a =>
    cases h <;> cases a with
    | ring => rfl
    | zone z => cases z <;> rfl
  | _ => rfl

@[simp] theorem keyOfCode_fnCode (f : Fn) : keyOfCode (fnCode f) = some (.fn f) := by
  cases f with
  | head h a =>
    cases h <;> cases a with
    | ring => rfl
    | zone z => cases z <;> rfl
  | _ => rfl

/-! Walks over argument bytes. -/

@[simp] theorem wholeWalk_byte (b : Byte) : wholeWalk byte [b] = some b.toNat := rfl
@[simp] theorem wholeWalk_noArgs : wholeWalk noArgs [] = some () := rfl

/-- What a walk has read goes on to the next. -/
theorem walkThen_some {α β : Type} {p : Walk α} {q : α → Walk β} {bs rest : List Byte} {x : α}
    (h : p bs = some (x, rest)) : walkThen p q bs = q x rest := by
  simp [walkThen, h]

end Sys2Proof.Machine
end

