-- ==== Sys2Proof/Laws/Tables.lean ====
section
/-! SUPPORT. What the small tables answer after an update: the same entry, the others, a table written whole. -/

namespace Sys2Proof

/-! Per head. -/

@[simp] theorem Pair.get_set_same {α : Type} (p : Pair α) (h : Head) (x : α) : (p.set h x).get h = x := by
  cases h <;> rfl

theorem Pair.get_set_of_ne {α : Type} (p : Pair α) {h k : Head} (x : α) (e : k ≠ h) : (p.set h x).get k = p.get k := by
  cases h <;> cases k <;> first | rfl | exact absurd rfl e

@[simp] theorem Pair.get_set_other {α : Type} (p : Pair α) (h : Head) (x : α) :
    (p.set h x).get h.other = p.get h.other := by
  cases h <;> rfl

@[simp] theorem Pair.get_other_set {α : Type} (p : Pair α) (h : Head) (x : α) :
    (p.set h.other x).get h = p.get h := by
  cases h <;> rfl

@[simp] theorem Pair.set_set {α : Type} (p : Pair α) (h : Head) (x y : α) : (p.set h x).set h y = p.set h y := by
  cases h <;> rfl

@[simp] theorem Pair.set_get {α : Type} (p : Pair α) (h : Head) : p.set h (p.get h) = p := by
  cases h <;> rfl

theorem Pair.ext_get {α : Type} {p q : Pair α} (e : ∀ h, p.get h = q.get h) : p = q := by
  cases p; cases q; simpa [Pair.get] using And.intro (e .a) (e .b)

@[simp] theorem Head.other_other (h : Head) : h.other.other = h := by cases h <;> rfl

theorem Head.other_ne (h : Head) : h.other ≠ h := by cases h <;> decide

theorem Head.eq_or_other (h k : Head) : k = h ∨ k = h.other := by cases h <;> cases k <;> decide

/-! Per zone. -/

@[simp] theorem PerZone.get_set_same {α : Type} (t : PerZone α) (z : Zone) (x : α) : (t.set z x).get z = x := by
  cases z <;> rfl

theorem PerZone.get_set_of_ne {α : Type} (t : PerZone α) {z y : Zone} (x : α) (e : y ≠ z) :
    (t.set z x).get y = t.get y := by
  cases z <;> cases y <;> first | rfl | exact absurd rfl e

@[simp] theorem PerZone.get_tabulate {α : Type} (f : Zone → α) (z : Zone) : (PerZone.tabulate f).get z = f z := by
  cases z <;> rfl

@[simp] theorem PerZone.get_fill {α : Type} (x : α) (z : Zone) : (PerZone.fill x).get z = x := by
  cases z <;> rfl

theorem PerZone.ext_get {α : Type} {t u : PerZone α} (e : ∀ z, t.get z = u.get z) : t = u := by
  have h1 := e .z1; have h2 := e .z2; have h3 := e .z3; have h4 := e .z4; have h5 := e .z5; have h6 := e .z6
  cases t; cases u; simp_all [PerZone.get]

theorem Zone.mem_all (z : Zone) : z ∈ Zone.all := by cases z <;> decide

/-! Per area. -/

@[simp] theorem PerArea.get_set_same {α : Type} (t : PerArea α) (a : Area) (x : α) : (t.set a x).get a = x := by
  cases a <;> simp [PerArea.set, PerArea.get]

theorem PerArea.get_set_of_ne {α : Type} (t : PerArea α) {a b : Area} (x : α) (e : b ≠ a) :
    (t.set a x).get b = t.get b := by
  cases a <;> cases b <;> simp_all [PerArea.set, PerArea.get, PerZone.get_set_of_ne]

@[simp] theorem PerArea.get_tabulate {α : Type} (f : Area → α) (a : Area) : (PerArea.tabulate f).get a = f a := by
  cases a <;> simp [PerArea.tabulate, PerArea.get]

@[simp] theorem PerArea.get_fill {α : Type} (x : α) (a : Area) : (PerArea.fill x).get a = x := by
  simp [PerArea.fill]

theorem PerArea.ext_get {α : Type} {t u : PerArea α} (e : ∀ a, t.get a = u.get a) : t = u := by
  have hz : t.zones = u.zones := PerZone.ext_get fun z => e (.zone z)
  have hr := e .ring
  cases t; cases u; simp_all [PerArea.get]

theorem Area.mem_all (a : Area) : a ∈ Area.all := by
  cases a with
  | ring => decide
  | zone z => cases z <;> decide

/-! Per function. -/

@[simp] theorem PerFn.get_set_same {α : Type} (t : PerFn α) (f : Fn) (x : α) : (t.set f x).get f = x := by
  cases f with
  | head h a => cases h <;> simp [PerFn.set, PerFn.get]
  | _ => rfl

theorem PerFn.get_set_of_ne {α : Type} (t : PerFn α) {f g : Fn} (x : α) (e : g ≠ f) :
    (t.set f x).get g = t.get g := by
  cases f with
  | head h a =>
    cases g with
    | head k b =>
      cases h <;> cases k <;> simp only [PerFn.set, PerFn.get] <;>
        exact PerArea.get_set_of_ne _ _ fun q => e (by rw [q])
    | _ => cases h <;> rfl
  | _ =>
    cases g with
    | head k b => cases k <;> rfl
    | _ => first | rfl | exact absurd rfl e

@[simp] theorem PerFn.get_tabulate {α : Type} (f : Fn → α) (g : Fn) : (PerFn.tabulate f).get g = f g := by
  cases g with
  | head h a => cases h <;> simp [PerFn.tabulate, PerFn.get]
  | _ => rfl

@[simp] theorem PerFn.get_fill {α : Type} (x : α) (g : Fn) : (PerFn.fill x).get g = x := by simp [PerFn.fill]

theorem PerFn.ext_get {α : Type} {t u : PerFn α} (e : ∀ f, t.get f = u.get f) : t = u := by
  have ha : t.ha = u.ha := PerArea.ext_get fun x => e (.head .a x)
  have hb : t.hb = u.hb := PerArea.ext_get fun x => e (.head .b x)
  have h1 := e .dose1; have h2 := e .dose2; have h3 := e .dose3; have h4 := e .rinse
  have h5 := e .arm; have h6 := e .force; have h7 := e .disk
  cases t; cases u; simp_all [PerFn.get]

theorem Fn.mem_all (f : Fn) : f ∈ Fn.all := by
  cases f with
  | head h a =>
    cases h <;> simp [Fn.all, Area.mem_all]
  | _ => decide

/-! Per source. -/

@[simp] theorem PerSource.get_set_same {α : Type} (t : PerSource α) (k : SourceId) (x : α) :
    (t.set k x).get k = x := by
  cases k <;> rfl

theorem PerSource.get_set_of_ne {α : Type} (t : PerSource α) {k j : SourceId} (x : α) (e : j ≠ k) :
    (t.set k x).get j = t.get j := by
  cases k <;> cases j <;> first | rfl | exact absurd rfl e

@[simp] theorem PerSource.get_tabulate {α : Type} (f : SourceId → α) (k : SourceId) :
    (PerSource.tabulate f).get k = f k := by
  cases k <;> rfl

theorem PerSource.ext_get {α : Type} {t u : PerSource α} (e : ∀ k, t.get k = u.get k) : t = u := by
  have h := fun k => e k
  have h1 := h .supervisionLoss; have h2 := h .portDLoss; have h3 := h .pressureDevA; have h4 := h .pressureDevB
  have h5 := h .stepTimeoutA; have h6 := h .stepTimeoutB; have h7 := h .sampleGapA; have h8 := h .sampleGapB
  have h9 := h .flowDev; have h10 := h .armStall; have h11 := h .setpointMismatch; have h12 := h .padWorn
  have h13 := h .diskWorn; have h14 := h .forwardOverflow; have h15 := h .storeFault; have h16 := h .limitReached
  cases t; cases u; simp_all [PerSource.get]

theorem SourceId.mem_all (k : SourceId) : k ∈ SourceId.all := by cases k <;> decide

/-! Indexed tables. -/

@[simp] theorem tableGet_tablePut_same {α : Type} (t : Table α) (i : Nat) (v : α) :
    tableGet (tablePut t i v) i = some v := by
  induction i generalizing t with
  | zero => cases t <;> rfl
  | succ i ih => cases t <;> simp [tablePut, tableGet, ih]

theorem tableGet_tablePut_of_ne {α : Type} (t : Table α) {i j : Nat} (v : α) (e : j ≠ i) :
    tableGet (tablePut t i v) j = tableGet t j := by
  induction i generalizing t j with
  | zero =>
    cases j with
    | zero => exact absurd rfl e
    | succ j => cases t <;> rfl
  | succ i ih =>
    cases j with
    | zero => cases t <;> rfl
    | succ j =>
      have e' : j ≠ i := fun q => e (by rw [q])
      cases t with
      | nil => simpa [tablePut, tableGet] using ih [] e'
      | cons x t => simpa [tablePut, tableGet] using ih t e'

end Sys2Proof
end

