-- ==== Sys2Proof/Laws/State.lean ====
section
/-! SUPPORT. One lemma per field of the state per named update, so that no proof unfolds an update. -/

namespace Sys2Proof.Machine

/-! setSeq changes `seqs` alone. -/

@[simp] theorem State.setSeq_pending (s : State) (h : Head) (q : Sequencer) : (s.setSeq h q).pending = s.pending := rfl
@[simp] theorem State.setSeq_base (s : State) (h : Head) (q : Sequencer) : (s.setSeq h q).base = s.base := rfl
@[simp] theorem State.setSeq_portU (s : State) (h : Head) (q : Sequencer) : (s.setSeq h q).portU = s.portU := rfl
@[simp] theorem State.setSeq_portD (s : State) (h : Head) (q : Sequencer) : (s.setSeq h q).portD = s.portD := rfl
@[simp] theorem State.setSeq_fwd (s : State) (h : Head) (q : Sequencer) : (s.setSeq h q).fwd = s.fwd := rfl
@[simp] theorem State.setSeq_fmap (s : State) (h : Head) (q : Sequencer) : (s.setSeq h q).fmap = s.fmap := rfl
@[simp] theorem State.setSeq_slots (s : State) (h : Head) (q : Sequencer) : (s.setSeq h q).slots = s.slots := rfl
@[simp] theorem State.setSeq_samplers (s : State) (h : Head) (q : Sequencer) : (s.setSeq h q).samplers = s.samplers := rfl
@[simp] theorem State.setSeq_seqs (s : State) (h : Head) (q : Sequencer) : (s.setSeq h q).seqs = s.seqs.set h q := rfl
@[simp] theorem State.setSeq_steps (s : State) (h : Head) (q : Sequencer) : (s.setSeq h q).steps = s.steps := rfl
@[simp] theorem State.setSeq_comps (s : State) (h : Head) (q : Sequencer) : (s.setSeq h q).comps = s.comps := rfl
@[simp] theorem State.setSeq_arb (s : State) (h : Head) (q : Sequencer) : (s.setSeq h q).arb = s.arb := rfl
@[simp] theorem State.setSeq_dose (s : State) (h : Head) (q : Sequencer) : (s.setSeq h q).dose = s.dose := rfl
@[simp] theorem State.setSeq_cdr (s : State) (h : Head) (q : Sequencer) : (s.setSeq h q).cdr = s.cdr := rfl
@[simp] theorem State.setSeq_cu (s : State) (h : Head) (q : Sequencer) : (s.setSeq h q).cu = s.cu := rfl
@[simp] theorem State.setSeq_mgmt (s : State) (h : Head) (q : Sequencer) : (s.setSeq h q).mgmt = s.mgmt := rfl
@[simp] theorem State.setSeq_store (s : State) (h : Head) (q : Sequencer) : (s.setSeq h q).store = s.store := rfl
@[simp] theorem State.setSeq_choice (s : State) (h : Head) (q : Sequencer) : (s.setSeq h q).choice = s.choice := rfl

/-! setSampler changes `samplers` alone. -/

@[simp] theorem State.setSampler_pending (s : State) (h : Head) (p : Sampler) : (s.setSampler h p).pending = s.pending := rfl
@[simp] theorem State.setSampler_base (s : State) (h : Head) (p : Sampler) : (s.setSampler h p).base = s.base := rfl
@[simp] theorem State.setSampler_portU (s : State) (h : Head) (p : Sampler) : (s.setSampler h p).portU = s.portU := rfl
@[simp] theorem State.setSampler_portD (s : State) (h : Head) (p : Sampler) : (s.setSampler h p).portD = s.portD := rfl
@[simp] theorem State.setSampler_fwd (s : State) (h : Head) (p : Sampler) : (s.setSampler h p).fwd = s.fwd := rfl
@[simp] theorem State.setSampler_fmap (s : State) (h : Head) (p : Sampler) : (s.setSampler h p).fmap = s.fmap := rfl
@[simp] theorem State.setSampler_slots (s : State) (h : Head) (p : Sampler) : (s.setSampler h p).slots = s.slots := rfl
@[simp] theorem State.setSampler_samplers (s : State) (h : Head) (p : Sampler) : (s.setSampler h p).samplers = s.samplers.set h p := rfl
@[simp] theorem State.setSampler_seqs (s : State) (h : Head) (p : Sampler) : (s.setSampler h p).seqs = s.seqs := rfl
@[simp] theorem State.setSampler_steps (s : State) (h : Head) (p : Sampler) : (s.setSampler h p).steps = s.steps := rfl
@[simp] theorem State.setSampler_comps (s : State) (h : Head) (p : Sampler) : (s.setSampler h p).comps = s.comps := rfl
@[simp] theorem State.setSampler_arb (s : State) (h : Head) (p : Sampler) : (s.setSampler h p).arb = s.arb := rfl
@[simp] theorem State.setSampler_dose (s : State) (h : Head) (p : Sampler) : (s.setSampler h p).dose = s.dose := rfl
@[simp] theorem State.setSampler_cdr (s : State) (h : Head) (p : Sampler) : (s.setSampler h p).cdr = s.cdr := rfl
@[simp] theorem State.setSampler_cu (s : State) (h : Head) (p : Sampler) : (s.setSampler h p).cu = s.cu := rfl
@[simp] theorem State.setSampler_mgmt (s : State) (h : Head) (p : Sampler) : (s.setSampler h p).mgmt = s.mgmt := rfl
@[simp] theorem State.setSampler_store (s : State) (h : Head) (p : Sampler) : (s.setSampler h p).store = s.store := rfl
@[simp] theorem State.setSampler_choice (s : State) (h : Head) (p : Sampler) : (s.setSampler h p).choice = s.choice := rfl

/-! setComp changes `comps` alone. -/

@[simp] theorem State.setComp_pending (s : State) (h : Head) (c : Option Computation) : (s.setComp h c).pending = s.pending := rfl
@[simp] theorem State.setComp_base (s : State) (h : Head) (c : Option Computation) : (s.setComp h c).base = s.base := rfl
@[simp] theorem State.setComp_portU (s : State) (h : Head) (c : Option Computation) : (s.setComp h c).portU = s.portU := rfl
@[simp] theorem State.setComp_portD (s : State) (h : Head) (c : Option Computation) : (s.setComp h c).portD = s.portD := rfl
@[simp] theorem State.setComp_fwd (s : State) (h : Head) (c : Option Computation) : (s.setComp h c).fwd = s.fwd := rfl
@[simp] theorem State.setComp_fmap (s : State) (h : Head) (c : Option Computation) : (s.setComp h c).fmap = s.fmap := rfl
@[simp] theorem State.setComp_slots (s : State) (h : Head) (c : Option Computation) : (s.setComp h c).slots = s.slots := rfl
@[simp] theorem State.setComp_samplers (s : State) (h : Head) (c : Option Computation) : (s.setComp h c).samplers = s.samplers := rfl
@[simp] theorem State.setComp_seqs (s : State) (h : Head) (c : Option Computation) : (s.setComp h c).seqs = s.seqs := rfl
@[simp] theorem State.setComp_steps (s : State) (h : Head) (c : Option Computation) : (s.setComp h c).steps = s.steps := rfl
@[simp] theorem State.setComp_comps (s : State) (h : Head) (c : Option Computation) : (s.setComp h c).comps = s.comps.set h c := rfl
@[simp] theorem State.setComp_arb (s : State) (h : Head) (c : Option Computation) : (s.setComp h c).arb = s.arb := rfl
@[simp] theorem State.setComp_dose (s : State) (h : Head) (c : Option Computation) : (s.setComp h c).dose = s.dose := rfl
@[simp] theorem State.setComp_cdr (s : State) (h : Head) (c : Option Computation) : (s.setComp h c).cdr = s.cdr := rfl
@[simp] theorem State.setComp_cu (s : State) (h : Head) (c : Option Computation) : (s.setComp h c).cu = s.cu := rfl
@[simp] theorem State.setComp_mgmt (s : State) (h : Head) (c : Option Computation) : (s.setComp h c).mgmt = s.mgmt := rfl
@[simp] theorem State.setComp_store (s : State) (h : Head) (c : Option Computation) : (s.setComp h c).store = s.store := rfl
@[simp] theorem State.setComp_choice (s : State) (h : Head) (c : Option Computation) : (s.setComp h c).choice = s.choice := rfl

/-! setFn changes `fmap` alone. -/

@[simp] theorem State.setFn_pending (s : State) (f : Fn) (x : FnState) : (s.setFn f x).pending = s.pending := rfl
@[simp] theorem State.setFn_base (s : State) (f : Fn) (x : FnState) : (s.setFn f x).base = s.base := rfl
@[simp] theorem State.setFn_portU (s : State) (f : Fn) (x : FnState) : (s.setFn f x).portU = s.portU := rfl
@[simp] theorem State.setFn_portD (s : State) (f : Fn) (x : FnState) : (s.setFn f x).portD = s.portD := rfl
@[simp] theorem State.setFn_fwd (s : State) (f : Fn) (x : FnState) : (s.setFn f x).fwd = s.fwd := rfl
@[simp] theorem State.setFn_fmap (s : State) (f : Fn) (x : FnState) : (s.setFn f x).fmap = { s.fmap with fns := s.fmap.fns.set f x } := rfl
@[simp] theorem State.setFn_slots (s : State) (f : Fn) (x : FnState) : (s.setFn f x).slots = s.slots := rfl
@[simp] theorem State.setFn_samplers (s : State) (f : Fn) (x : FnState) : (s.setFn f x).samplers = s.samplers := rfl
@[simp] theorem State.setFn_seqs (s : State) (f : Fn) (x : FnState) : (s.setFn f x).seqs = s.seqs := rfl
@[simp] theorem State.setFn_steps (s : State) (f : Fn) (x : FnState) : (s.setFn f x).steps = s.steps := rfl
@[simp] theorem State.setFn_comps (s : State) (f : Fn) (x : FnState) : (s.setFn f x).comps = s.comps := rfl
@[simp] theorem State.setFn_arb (s : State) (f : Fn) (x : FnState) : (s.setFn f x).arb = s.arb := rfl
@[simp] theorem State.setFn_dose (s : State) (f : Fn) (x : FnState) : (s.setFn f x).dose = s.dose := rfl
@[simp] theorem State.setFn_cdr (s : State) (f : Fn) (x : FnState) : (s.setFn f x).cdr = s.cdr := rfl
@[simp] theorem State.setFn_cu (s : State) (f : Fn) (x : FnState) : (s.setFn f x).cu = s.cu := rfl
@[simp] theorem State.setFn_mgmt (s : State) (f : Fn) (x : FnState) : (s.setFn f x).mgmt = s.mgmt := rfl
@[simp] theorem State.setFn_store (s : State) (f : Fn) (x : FnState) : (s.setFn f x).store = s.store := rfl
@[simp] theorem State.setFn_choice (s : State) (f : Fn) (x : FnState) : (s.setFn f x).choice = s.choice := rfl

/-! setSource changes `cu` alone. -/

@[simp] theorem State.setSource_pending (s : State) (k : SourceId) (x : Source) : (s.setSource k x).pending = s.pending := rfl
@[simp] theorem State.setSource_base (s : State) (k : SourceId) (x : Source) : (s.setSource k x).base = s.base := rfl
@[simp] theorem State.setSource_portU (s : State) (k : SourceId) (x : Source) : (s.setSource k x).portU = s.portU := rfl
@[simp] theorem State.setSource_portD (s : State) (k : SourceId) (x : Source) : (s.setSource k x).portD = s.portD := rfl
@[simp] theorem State.setSource_fwd (s : State) (k : SourceId) (x : Source) : (s.setSource k x).fwd = s.fwd := rfl
@[simp] theorem State.setSource_fmap (s : State) (k : SourceId) (x : Source) : (s.setSource k x).fmap = s.fmap := rfl
@[simp] theorem State.setSource_slots (s : State) (k : SourceId) (x : Source) : (s.setSource k x).slots = s.slots := rfl
@[simp] theorem State.setSource_samplers (s : State) (k : SourceId) (x : Source) : (s.setSource k x).samplers = s.samplers := rfl
@[simp] theorem State.setSource_seqs (s : State) (k : SourceId) (x : Source) : (s.setSource k x).seqs = s.seqs := rfl
@[simp] theorem State.setSource_steps (s : State) (k : SourceId) (x : Source) : (s.setSource k x).steps = s.steps := rfl
@[simp] theorem State.setSource_comps (s : State) (k : SourceId) (x : Source) : (s.setSource k x).comps = s.comps := rfl
@[simp] theorem State.setSource_arb (s : State) (k : SourceId) (x : Source) : (s.setSource k x).arb = s.arb := rfl
@[simp] theorem State.setSource_dose (s : State) (k : SourceId) (x : Source) : (s.setSource k x).dose = s.dose := rfl
@[simp] theorem State.setSource_cdr (s : State) (k : SourceId) (x : Source) : (s.setSource k x).cdr = s.cdr := rfl
@[simp] theorem State.setSource_cu (s : State) (k : SourceId) (x : Source) : (s.setSource k x).cu = { s.cu with sources := s.cu.sources.set k x } := rfl
@[simp] theorem State.setSource_mgmt (s : State) (k : SourceId) (x : Source) : (s.setSource k x).mgmt = s.mgmt := rfl
@[simp] theorem State.setSource_store (s : State) (k : SourceId) (x : Source) : (s.setSource k x).store = s.store := rfl
@[simp] theorem State.setSource_choice (s : State) (k : SourceId) (x : Source) : (s.setSource k x).choice = s.choice := rfl

/-! setArb changes `arb` alone. -/

@[simp] theorem State.setArb_pending (s : State) (a : Arbiter) : (s.setArb a).pending = s.pending := rfl
@[simp] theorem State.setArb_base (s : State) (a : Arbiter) : (s.setArb a).base = s.base := rfl
@[simp] theorem State.setArb_portU (s : State) (a : Arbiter) : (s.setArb a).portU = s.portU := rfl
@[simp] theorem State.setArb_portD (s : State) (a : Arbiter) : (s.setArb a).portD = s.portD := rfl
@[simp] theorem State.setArb_fwd (s : State) (a : Arbiter) : (s.setArb a).fwd = s.fwd := rfl
@[simp] theorem State.setArb_fmap (s : State) (a : Arbiter) : (s.setArb a).fmap = s.fmap := rfl
@[simp] theorem State.setArb_slots (s : State) (a : Arbiter) : (s.setArb a).slots = s.slots := rfl
@[simp] theorem State.setArb_samplers (s : State) (a : Arbiter) : (s.setArb a).samplers = s.samplers := rfl
@[simp] theorem State.setArb_seqs (s : State) (a : Arbiter) : (s.setArb a).seqs = s.seqs := rfl
@[simp] theorem State.setArb_steps (s : State) (a : Arbiter) : (s.setArb a).steps = s.steps := rfl
@[simp] theorem State.setArb_comps (s : State) (a : Arbiter) : (s.setArb a).comps = s.comps := rfl
@[simp] theorem State.setArb_arb (s : State) (a : Arbiter) : (s.setArb a).arb = a := rfl
@[simp] theorem State.setArb_dose (s : State) (a : Arbiter) : (s.setArb a).dose = s.dose := rfl
@[simp] theorem State.setArb_cdr (s : State) (a : Arbiter) : (s.setArb a).cdr = s.cdr := rfl
@[simp] theorem State.setArb_cu (s : State) (a : Arbiter) : (s.setArb a).cu = s.cu := rfl
@[simp] theorem State.setArb_mgmt (s : State) (a : Arbiter) : (s.setArb a).mgmt = s.mgmt := rfl
@[simp] theorem State.setArb_store (s : State) (a : Arbiter) : (s.setArb a).store = s.store := rfl
@[simp] theorem State.setArb_choice (s : State) (a : Arbiter) : (s.setArb a).choice = s.choice := rfl

/-! setRun changes `cdr` alone. -/

@[simp] theorem State.setRun_pending (s : State) (r : Option CondRun) : (s.setRun r).pending = s.pending := rfl
@[simp] theorem State.setRun_base (s : State) (r : Option CondRun) : (s.setRun r).base = s.base := rfl
@[simp] theorem State.setRun_portU (s : State) (r : Option CondRun) : (s.setRun r).portU = s.portU := rfl
@[simp] theorem State.setRun_portD (s : State) (r : Option CondRun) : (s.setRun r).portD = s.portD := rfl
@[simp] theorem State.setRun_fwd (s : State) (r : Option CondRun) : (s.setRun r).fwd = s.fwd := rfl
@[simp] theorem State.setRun_fmap (s : State) (r : Option CondRun) : (s.setRun r).fmap = s.fmap := rfl
@[simp] theorem State.setRun_slots (s : State) (r : Option CondRun) : (s.setRun r).slots = s.slots := rfl
@[simp] theorem State.setRun_samplers (s : State) (r : Option CondRun) : (s.setRun r).samplers = s.samplers := rfl
@[simp] theorem State.setRun_seqs (s : State) (r : Option CondRun) : (s.setRun r).seqs = s.seqs := rfl
@[simp] theorem State.setRun_steps (s : State) (r : Option CondRun) : (s.setRun r).steps = s.steps := rfl
@[simp] theorem State.setRun_comps (s : State) (r : Option CondRun) : (s.setRun r).comps = s.comps := rfl
@[simp] theorem State.setRun_arb (s : State) (r : Option CondRun) : (s.setRun r).arb = s.arb := rfl
@[simp] theorem State.setRun_dose (s : State) (r : Option CondRun) : (s.setRun r).dose = s.dose := rfl
@[simp] theorem State.setRun_cdr (s : State) (r : Option CondRun) : (s.setRun r).cdr = { s.cdr with run := r } := rfl
@[simp] theorem State.setRun_cu (s : State) (r : Option CondRun) : (s.setRun r).cu = s.cu := rfl
@[simp] theorem State.setRun_mgmt (s : State) (r : Option CondRun) : (s.setRun r).mgmt = s.mgmt := rfl
@[simp] theorem State.setRun_store (s : State) (r : Option CondRun) : (s.setRun r).store = s.store := rfl
@[simp] theorem State.setRun_choice (s : State) (r : Option CondRun) : (s.setRun r).choice = s.choice := rfl

/-! setStore changes `store` alone. -/

@[simp] theorem State.setStore_pending (s : State) (x : ParameterStore) : (s.setStore x).pending = s.pending := rfl
@[simp] theorem State.setStore_base (s : State) (x : ParameterStore) : (s.setStore x).base = s.base := rfl
@[simp] theorem State.setStore_portU (s : State) (x : ParameterStore) : (s.setStore x).portU = s.portU := rfl
@[simp] theorem State.setStore_portD (s : State) (x : ParameterStore) : (s.setStore x).portD = s.portD := rfl
@[simp] theorem State.setStore_fwd (s : State) (x : ParameterStore) : (s.setStore x).fwd = s.fwd := rfl
@[simp] theorem State.setStore_fmap (s : State) (x : ParameterStore) : (s.setStore x).fmap = s.fmap := rfl
@[simp] theorem State.setStore_slots (s : State) (x : ParameterStore) : (s.setStore x).slots = s.slots := rfl
@[simp] theorem State.setStore_samplers (s : State) (x : ParameterStore) : (s.setStore x).samplers = s.samplers := rfl
@[simp] theorem State.setStore_seqs (s : State) (x : ParameterStore) : (s.setStore x).seqs = s.seqs := rfl
@[simp] theorem State.setStore_steps (s : State) (x : ParameterStore) : (s.setStore x).steps = s.steps := rfl
@[simp] theorem State.setStore_comps (s : State) (x : ParameterStore) : (s.setStore x).comps = s.comps := rfl
@[simp] theorem State.setStore_arb (s : State) (x : ParameterStore) : (s.setStore x).arb = s.arb := rfl
@[simp] theorem State.setStore_dose (s : State) (x : ParameterStore) : (s.setStore x).dose = s.dose := rfl
@[simp] theorem State.setStore_cdr (s : State) (x : ParameterStore) : (s.setStore x).cdr = s.cdr := rfl
@[simp] theorem State.setStore_cu (s : State) (x : ParameterStore) : (s.setStore x).cu = s.cu := rfl
@[simp] theorem State.setStore_mgmt (s : State) (x : ParameterStore) : (s.setStore x).mgmt = s.mgmt := rfl
@[simp] theorem State.setStore_store (s : State) (x : ParameterStore) : (s.setStore x).store = x := rfl
@[simp] theorem State.setStore_choice (s : State) (x : ParameterStore) : (s.setStore x).choice = s.choice := rfl

/-! choicesTaken changes `choice` alone. -/

@[simp] theorem State.choicesTaken_pending (s : State) (n : Nat) : (s.choicesTaken n).pending = s.pending := rfl
@[simp] theorem State.choicesTaken_base (s : State) (n : Nat) : (s.choicesTaken n).base = s.base := rfl
@[simp] theorem State.choicesTaken_portU (s : State) (n : Nat) : (s.choicesTaken n).portU = s.portU := rfl
@[simp] theorem State.choicesTaken_portD (s : State) (n : Nat) : (s.choicesTaken n).portD = s.portD := rfl
@[simp] theorem State.choicesTaken_fwd (s : State) (n : Nat) : (s.choicesTaken n).fwd = s.fwd := rfl
@[simp] theorem State.choicesTaken_fmap (s : State) (n : Nat) : (s.choicesTaken n).fmap = s.fmap := rfl
@[simp] theorem State.choicesTaken_slots (s : State) (n : Nat) : (s.choicesTaken n).slots = s.slots := rfl
@[simp] theorem State.choicesTaken_samplers (s : State) (n : Nat) : (s.choicesTaken n).samplers = s.samplers := rfl
@[simp] theorem State.choicesTaken_seqs (s : State) (n : Nat) : (s.choicesTaken n).seqs = s.seqs := rfl
@[simp] theorem State.choicesTaken_steps (s : State) (n : Nat) : (s.choicesTaken n).steps = s.steps := rfl
@[simp] theorem State.choicesTaken_comps (s : State) (n : Nat) : (s.choicesTaken n).comps = s.comps := rfl
@[simp] theorem State.choicesTaken_arb (s : State) (n : Nat) : (s.choicesTaken n).arb = s.arb := rfl
@[simp] theorem State.choicesTaken_dose (s : State) (n : Nat) : (s.choicesTaken n).dose = s.dose := rfl
@[simp] theorem State.choicesTaken_cdr (s : State) (n : Nat) : (s.choicesTaken n).cdr = s.cdr := rfl
@[simp] theorem State.choicesTaken_cu (s : State) (n : Nat) : (s.choicesTaken n).cu = s.cu := rfl
@[simp] theorem State.choicesTaken_mgmt (s : State) (n : Nat) : (s.choicesTaken n).mgmt = s.mgmt := rfl
@[simp] theorem State.choicesTaken_store (s : State) (n : Nat) : (s.choicesTaken n).store = s.store := rfl
@[simp] theorem State.choicesTaken_choice (s : State) (n : Nat) : (s.choicesTaken n).choice = s.choice + n := rfl

/-! What the accessors answer after an update. -/

@[simp] theorem State.seq_setSeq_same (s : State) (h : Head) (q : Sequencer) : (s.setSeq h q).seq h = q := by
  simp [State.seq]

@[simp] theorem State.seq_setSeq_other (s : State) (h : Head) (q : Sequencer) :
    (s.setSeq h q).seq h.other = s.seq h.other := by
  simp [State.seq]

theorem State.seq_setSeq_of_ne (s : State) {h k : Head} (q : Sequencer) (e : k ≠ h) : (s.setSeq h q).seq k = s.seq k := by
  simp [State.seq, Pair.get_set_of_ne _ _ e]

@[simp] theorem State.setSeq_setSeq (s : State) (h : Head) (p q : Sequencer) :
    (s.setSeq h p).setSeq h q = s.setSeq h q := by
  simp [State.setSeq]

@[simp] theorem State.setSeq_seq (s : State) (h : Head) : s.setSeq h (s.seq h) = s := by
  simp [State.setSeq, State.seq]

@[simp] theorem State.sampler_setSampler_same (s : State) (h : Head) (p : Sampler) :
    (s.setSampler h p).sampler h = p := by
  simp [State.sampler]

@[simp] theorem State.sampler_setSampler_other (s : State) (h : Head) (p : Sampler) :
    (s.setSampler h p).sampler h.other = s.sampler h.other := by
  simp [State.sampler]

@[simp] theorem State.comp_setComp_same (s : State) (h : Head) (c : Option Computation) :
    (s.setComp h c).comp h = c := by
  simp [State.comp]

@[simp] theorem State.comp_setComp_other (s : State) (h : Head) (c : Option Computation) :
    (s.setComp h c).comp h.other = s.comp h.other := by
  simp [State.comp]

@[simp] theorem State.fn_setFn_same (s : State) (f : Fn) (x : FnState) : (s.setFn f x).fn f = x := by
  simp [State.fn]

theorem State.fn_setFn_of_ne (s : State) {f g : Fn} (x : FnState) (e : g ≠ f) : (s.setFn f x).fn g = s.fn g := by
  simp [State.fn, PerFn.get_set_of_ne _ _ e]

@[simp] theorem State.source_setSource_same (s : State) (k : SourceId) (x : Source) :
    (s.setSource k x).source k = x := by
  simp [State.source]

theorem State.source_setSource_of_ne (s : State) {k j : SourceId} (x : Source) (e : j ≠ k) :
    (s.setSource k x).source j = s.source j := by
  simp [State.source, PerSource.get_set_of_ne _ _ e]

/-! Accessors read one block each: two states that agree in the block agree in the accessor. -/

theorem State.seq_of_seqs {s t : State} (e : t.seqs = s.seqs) (h : Head) : t.seq h = s.seq h := by
  rw [State.seq, e]; rfl

theorem State.sampler_of_samplers {s t : State} (e : t.samplers = s.samplers) (h : Head) :
    t.sampler h = s.sampler h := by
  rw [State.sampler, e]; rfl

theorem State.fn_of_fmap {s t : State} (e : t.fmap = s.fmap) (f : Fn) : t.fn f = s.fn f := by
  rw [State.fn, e]; rfl

theorem State.source_of_cu {s t : State} (e : t.cu = s.cu) (k : SourceId) : t.source k = s.source k := by
  rw [State.source, e]; rfl

theorem State.lim_of_limits {s t : State} (e : t.mgmt.limits = s.mgmt.limits) : t.lim = s.lim := by
  rw [State.lim, e]; rfl

theorem State.active_of_mode {s t : State} (e : t.mgmt.mode = s.mgmt.mode) : t.active = s.active := by
  rw [State.active, e]; rfl

theorem State.lim_eq {s : State} {l : LimitBlock} (e : s.mgmt.limits = some l) : s.lim = l := by
  rw [State.lim, e]; rfl

end Sys2Proof.Machine
end

