-- ==== Sys2Proof/Laws/Frames.lean ====
section
/-! SUPPORT. What the operations on heads, pad and slots can do, said once for each: `Moves s t` lists everything that such
an operation leaves alone. A proof about a command cites these and does not unfold the operation. -/

namespace Sys2Proof.Machine

/-- `t` differs from `s` at most in the sequencers, sample units, last computations, slots, the current dose, the
conditioner's run, the arbiter's service, waiting list and hold flag, the event queue and its dropped marker, and the
store. -/
structure Moves (s t : State) : Prop where
  pending  : t.pending = s.pending
  base     : t.base = s.base
  portU    : t.portU = s.portU
  portD    : t.portD = s.portD
  fwd      : t.fwd = s.fwd
  fmap     : t.fmap = s.fmap
  steps    : t.steps = s.steps
  cu       : t.cu = s.cu
  choice   : t.choice = s.choice
  entries  : t.arb.table = s.arb.table
  blends   : t.dose.blends = s.dose.blends
  cdr      : { t.cdr with run := s.cdr.run } = s.cdr
  mgmt     : { t.mgmt with events := s.mgmt.events, dropped := s.mgmt.dropped } = s.mgmt

theorem Moves.refl (s : State) : Moves s s := by constructor <;> rfl

theorem Moves.trans {s t u : State} (a : Moves s t) (b : Moves t u) : Moves s u where
  pending := b.pending.trans a.pending
  base := b.base.trans a.base
  portU := b.portU.trans a.portU
  portD := b.portD.trans a.portD
  fwd := b.fwd.trans a.fwd
  fmap := b.fmap.trans a.fmap
  steps := b.steps.trans a.steps
  cu := b.cu.trans a.cu
  choice := b.choice.trans a.choice
  entries := b.entries.trans a.entries
  blends := b.blends.trans a.blends
  cdr := by rw [← a.cdr, ← b.cdr]
  mgmt := by rw [← a.mgmt, ← b.mgmt]

theorem Moves.programs {s t : State} (m : Moves s t) : t.cdr.programs = s.cdr.programs := by
  have e := congrArg Conditioner.programs m.cdr; exact e

theorem Moves.limits {s t : State} (m : Moves s t) : t.mgmt.limits = s.mgmt.limits := by
  have e := congrArg Management.limits m.mgmt; exact e

theorem Moves.mode {s t : State} (m : Moves s t) : t.mgmt.mode = s.mgmt.mode := by
  have e := congrArg Management.mode m.mgmt; exact e

theorem Moves.lim {s t : State} (m : Moves s t) : t.lim = s.lim := State.lim_of_limits m.limits

theorem Moves.active {s t : State} (m : Moves s t) : t.active = s.active := State.active_of_mode m.mode

/-! Updates of one block. -/

theorem setSeq_moves (h : Head) (q : Sequencer) (s : State) : Moves s (s.setSeq h q) := by constructor <;> rfl
theorem setSampler_moves (h : Head) (p : Sampler) (s : State) : Moves s (s.setSampler h p) := by constructor <;> rfl
theorem setComp_moves (h : Head) (c : Option Computation) (s : State) : Moves s (s.setComp h c) := by
  constructor <;> rfl
theorem setRun_moves (r : Option CondRun) (s : State) : Moves s (s.setRun r) := by constructor <;> rfl
theorem setStore_moves (x : ParameterStore) (s : State) : Moves s (s.setStore x) := by constructor <;> rfl
theorem setArb_moves {a : Arbiter} {s : State} (e : a.table = s.arb.table) : Moves s (s.setArb a) := by
  constructor <;> first | rfl | exact e

/-! The event queue and the slots. -/

theorem queueEvent_moves (kind : EventKind) (head : Option Head) (data : List (BitVec 32)) (s : State) :
    Moves s (queueEvent kind head data s) := by
  unfold queueEvent; split <;> constructor <;> rfl

/-- Queueing an event writes the management unit alone. -/
theorem queueEvent_only (kind : EventKind) (head : Option Head) (data : List (BitVec 32)) (s : State) :
    { queueEvent kind head data s with mgmt := s.mgmt } = s := by
  unfold queueEvent; split <;> rfl

/-- The event queue after an event, and its marker (R177). -/
theorem queueEvent_mgmt (kind : EventKind) (head : Option Head) (data : List (BitVec 32)) (s : State) :
    (queueEvent kind head data s).mgmt =
      if s.mgmt.events.length < Config.eventCapacity then
        { s.mgmt with
          events := s.mgmt.events ++ [{ kind, head, time := s.base.time, data, droppedBefore := s.mgmt.dropped }]
          dropped := false }
      else { s.mgmt with dropped := true } := by
  unfold queueEvent; split <;> rfl

/-- A slot write writes the slots alone. -/
theorem writeSlot_only (f : Fn) (v : Nat) (s : State) : { writeSlot f v s with slots := s.slots } = s := by
  unfold writeSlot; split <;> rfl

theorem writeSlot_moves (f : Fn) (v : Nat) (s : State) : Moves s (writeSlot f v s) := by
  unfold writeSlot; split <;> constructor <;> rfl

@[simp] theorem writeSlot_active (f : Fn) (v : Nat) (s : State) : (writeSlot f v s).active = s.active :=
  (writeSlot_moves f v s).active

/-- What a slot write leaves in the slots (R108). -/
theorem writeSlot_slots (f : Fn) (v : Nat) (s : State) :
    (writeSlot f v s).slots =
      if s.active then s.slots.set f (some (slotAfter s.base.time v (s.slots.get f))) else s.slots := by
  unfold writeSlot; split <;> rfl

theorem writeSlots_moves (ws : List (Fn × Nat)) (s : State) : Moves s (writeSlots ws s) := by
  induction ws generalizing s with
  | nil => exact Moves.refl s
  | cons w ws ih => exact (writeSlot_moves w.1 w.2 s).trans (ih _)

/-- Slot writes write the slots alone. -/
theorem writeSlots_only (ws : List (Fn × Nat)) (s : State) : { writeSlots ws s with slots := s.slots } = s := by
  induction ws generalizing s with
  | nil => rfl
  | cons w ws ih =>
    have e := congrArg (fun t : State => { t with slots := s.slots }) (ih (writeSlot w.1 w.2 s))
    exact e.trans (writeSlot_only w.1 w.2 s)

/-! Dosing, conditioner, pressures. -/

theorem writeDosing_moves (d : Dose) (s : State) : Moves s (writeDosing d s) := by
  unfold writeDosing
  split
  · refine Moves.trans (t := { s with dose := { s.dose with current := some d } }) ?_ (writeSlots_moves _ _)
    constructor <;> rfl
  · exact Moves.refl s

theorem doseEntry_moves (e n : Nat) (s : State) : Moves s (doseEntry e n s) := writeDosing_moves _ s

theorem enterTravel_moves (run : CondRun) (n : Nat) (seg : Segment) (s : State) : Moves s (enterTravel run n seg s) :=
  (writeSlot_moves _ _ s).trans (setRun_moves _ _)

theorem startProgram_moves (k : Nat) (s : State) : Moves s (startProgram k s) := by
  unfold startProgram
  split
  · exact Moves.refl s
  · split
    · exact Moves.refl s
    · exact ((writeSlot_moves _ _ s).trans (writeSlot_moves _ _ _)).trans (enterTravel_moves _ _ _ _)

theorem conditionEntry_moves (e : Nat) (s : State) : Moves s (conditionEntry e s) := by
  unfold conditionEntry
  split
  · exact startProgram_moves _ s
  · exact writeSlots_moves _ s

theorem stopProgram_moves (s : State) : Moves s (stopProgram s) := setRun_moves none s

theorem commandAll_moves (h : Head) (p : PerArea Nat) (s : State) : Moves s (commandAll h p s) :=
  (setSeq_moves h _ s).trans (writeSlots_moves _ _)

theorem writeHoldPressures_moves (h : Head) (s : State) : Moves s (writeHoldPressures h s) := commandAll_moves h _ s

theorem clearSweeps_moves (h : Head) (s : State) : Moves s (clearSweeps h s) := setSampler_moves h _ s

theorem polishingEntry_moves (h : Head) (s : State) : Moves s (polishingEntry h s) := by
  unfold polishingEntry
  split
  · exact Moves.refl s
  · exact (((commandAll_moves h _ s).trans (clearSweeps_moves h _)).trans (setComp_moves h none _)).trans
      (setSeq_moves h _ _)

theorem pauseHead_moves (h : Head) (s : State) : Moves s (pauseHead h s) := setSeq_moves h _ s
theorem resumeHead_moves (h : Head) (s : State) : Moves s (resumeHead h s) := setSeq_moves h _ s

theorem pauseAction_moves (h : Head) (s : State) : Moves s (pauseAction h s) := by
  unfold pauseAction
  split
  · exact pauseHead_moves h s
  · exact Moves.refl s

/-! The arbiter. -/

theorem writeIdleValues_moves (s : State) : Moves s (writeIdleValues s) :=
  (writeDosing_moves _ s).trans (writeSlots_moves _ _)

theorem writeHoldValues_moves (s : State) : Moves s (writeHoldValues s) :=
  (writeDosing_moves _ s).trans (writeSlots_moves _ _)

theorem startEntry_moves (h : Head) (e : Nat) (s : State) : Moves s (startEntry h e s) := by
  refine Moves.trans (setArb_moves ?_) ((queueEvent_moves _ _ _ _).trans
    ((doseEntry_moves e 1 _).trans (conditionEntry_moves e _)))
  rfl

theorem grantWaiting_moves (h : Head) (s : State) : Moves s (grantWaiting h s) := by
  unfold grantWaiting
  split
  · exact polishingEntry_moves h s
  · exact Moves.refl s

theorem joinService_moves (h : Head) (g : Grant) (s : State) : Moves s (joinService h g s) := by
  refine Moves.trans (setArb_moves ?_) ((queueEvent_moves _ _ _ _).trans (doseEntry_moves _ _ _))
  rfl

theorem releasePad_moves (h : Head) (s : State) : Moves s (releasePad h s) := by
  unfold releasePad
  split
  · exact Moves.refl s
  · dsimp only
    split
    · split
      · refine Moves.trans (setArb_moves ?_) (doseEntry_moves _ _ _)
        rfl
      · split
        · refine Moves.trans (setArb_moves ?_) ((stopProgram_moves _).trans
            ((startEntry_moves _ _ _).trans (grantWaiting_moves _ _)))
          rfl
        · refine Moves.trans (setArb_moves ?_) ((stopProgram_moves _).trans (writeIdleValues_moves _))
          rfl
    · exact Moves.refl s

theorem withdraw_moves (h : Head) (s : State) : Moves s (withdraw h s) := setArb_moves rfl

theorem enterWaitPad_moves (h : Head) (e : Nat) (s : State) : Moves s (enterWaitPad h e s) := by
  refine Moves.trans (setArb_moves ?_) ((writeHoldPressures_moves h _).trans (setSeq_moves h _ _))
  rfl

theorem releaseOther_moves (h : Head) (e : Nat) (s : State) : Moves s (releaseOther h e s) := by
  unfold releaseOther
  split
  · exact Moves.refl s
  · exact releasePad_moves h s

theorem decideRequest_moves (h : Head) (e : Nat) (s : State) : Moves s (decideRequest h e s) := by
  unfold decideRequest
  split
  · exact enterWaitPad_moves h e s
  · split
    · exact (startEntry_moves h e s).trans (polishingEntry_moves h _)
    · split
      · split
        · exact polishingEntry_moves h s
        · exact (joinService_moves h _ s).trans (polishingEntry_moves h _)
      · exact enterWaitPad_moves h e s

theorem requestPad_moves (h : Head) (e : Nat) (s : State) : Moves s (requestPad h e s) :=
  (releaseOther_moves h e s).trans (decideRequest_moves h e _)

theorem beginHold_moves (s : State) : Moves s (beginHold s) := by
  unfold beginHold
  split
  · exact writeHoldValues_moves s
  · refine Moves.trans (setArb_moves ?_) ((stopProgram_moves _).trans
      ((writeHoldValues_moves _).trans (queueEvent_moves _ _ _ _)))
    rfl

theorem joinSecond_moves (e : Nat) (s : State) : Moves s (joinSecond e s) := by
  unfold joinSecond
  split
  · split
    · refine Moves.trans (setArb_moves ?_) ((joinService_moves _ _ _).trans (grantWaiting_moves _ _))
      rfl
    · exact Moves.refl s
  · exact Moves.refl s

theorem endHold_moves (s : State) : Moves s (endHold s) := by
  unfold endHold
  split
  · dsimp only
    have a : Moves s (s.setArb { s.arb with hold := false }) := setArb_moves rfl
    have b := a.trans (queueEvent_moves .holdReleased none [] _)
    split
    · exact b.trans (writeIdleValues_moves _)
    · refine (b.trans (setArb_moves ?_)).trans
        ((startEntry_moves _ _ _).trans ((grantWaiting_moves _ _).trans (joinSecond_moves _ _)))
      rfl
  · exact Moves.refl s

/-! Transitions of a head. -/

theorem stepEntry_moves (h : Head) (s : State) : Moves s (stepEntry h s) := by
  unfold stepEntry
  split
  · dsimp only
    split
    · exact (setSeq_moves h _ s).trans ((queueEvent_moves _ _ _ _).trans
        ((releasePad_moves h _).trans (polishingEntry_moves h _)))
    · exact (setSeq_moves h _ s).trans ((queueEvent_moves _ _ _ _).trans (requestPad_moves h _ _))
  · exact Moves.refl s

theorem raiseWafers_moves (s : State) : Moves s (raiseWafers s) := setStore_moves _ s

theorem requestWearWrite_moves (s : State) : Moves s (requestWearWrite s) := by
  unfold requestWearWrite
  split <;> exact setStore_moves _ s

theorem enterDone_moves (h : Head) (s : State) : Moves s (enterDone h s) := by
  unfold enterDone
  refine (releasePad_moves h s).trans ((writeHoldPressures_moves h _).trans (Moves.trans ?_
    (requestWearWrite_moves _)))
  exact (setSeq_moves h _ _).trans ((queueEvent_moves _ _ _ _).trans (raiseWafers_moves _))

theorem closeStep_moves (h : Head) (cause : EndCause) (s : State) : Moves s (closeStep h cause s) := by
  unfold closeStep
  dsimp only
  split
  · exact setSeq_moves h _ s
  · exact (setSeq_moves h _ s).trans ((setSeq_moves h _ _).trans (queueEvent_moves _ _ _ _))

theorem endStep_moves (h : Head) (cause : EndCause) (s : State) : Moves s (endStep h cause s) := by
  unfold endStep
  dsimp only
  split
  · split
    · exact (closeStep_moves h cause s).trans ((setSeq_moves h _ _).trans (stepEntry_moves h _))
    · exact (closeStep_moves h cause s).trans (enterDone_moves h _)
  · exact closeStep_moves h cause s

theorem leavePad_moves (h : Head) (s : State) : Moves s (leavePad h s) := by
  unfold leavePad
  split
  · exact withdraw_moves h s
  · exact releasePad_moves h s

theorem abortHead_moves (h : Head) (s : State) : Moves s (abortHead h s) := by
  unfold abortHead
  dsimp only
  split
  · exact (leavePad_moves h s).trans ((writeHoldPressures_moves h _).trans (setSeq_moves h _ _))
  · exact (leavePad_moves h s).trans ((writeHoldPressures_moves h _).trans ((setSeq_moves h _ _).trans
      ((queueEvent_moves _ _ _ _).trans (setSeq_moves h _ _))))

theorem abortIfWorking_moves (h : Head) (s : State) : Moves s (abortIfWorking h s) := by
  unfold abortIfWorking
  split
  · exact abortHead_moves h s
  · exact Moves.refl s

theorem holdAction_moves (h : Head) (s : State) : Moves s (holdAction h s) := by
  unfold holdAction
  split
  case h_4 => exact Moves.refl s
  all_goals
    refine Moves.trans ?_ (writeHoldPressures_moves h _)
    exact (leavePad_moves h s).trans (setSeq_moves h _ _)

theorem skipStep_moves (h : Head) (s : State) : Moves s (skipStep h s) := by
  unfold skipStep
  split
  · exact (withdraw_moves h s).trans (endStep_moves h .skip _)
  · exact endStep_moves h .skip s

theorem applyAction_moves (k : SourceId) (s : State) : Moves s (applyAction k s) := by
  unfold applyAction
  split
  · exact pauseAction_moves _ s
  · exact (pauseAction_moves _ s).trans (pauseAction_moves _ _)
  · exact holdAction_moves _ s
  · exact (beginHold_moves s).trans ((holdAction_moves _ _).trans (holdAction_moves _ _))
  · exact Moves.refl s
  · exact Moves.refl s

/-! Operations of the condition unit that write its block alone, or its block and the event queue. -/

theorem losePresence_only (k : SourceId) (s : State) : { losePresence k s with cu := s.cu } = s := by
  unfold losePresence; dsimp only; split
  · split <;> rfl
  · rfl

theorem endSimulation_only (k : SourceId) (s : State) : { endSimulation k s with cu := s.cu } = s := by
  unfold endSimulation; dsimp only; split <;> rfl

theorem repend_only (s : State) : { repend s with cu := s.cu } = s := rfl

theorem raiseLevel_only (k : SourceId) (s : State) : { raiseLevel k s with cu := s.cu } = s := rfl

/-- A taking changes the condition unit, and queues one event at most (R143, R145). -/
theorem takeSource_only (k : SourceId) (s : State) :
    { takeSource k s with cu := s.cu, mgmt := s.mgmt } = s := by
  unfold takeSource; dsimp only; split
  · rfl
  · unfold queueEvent; split <;> rfl

end Sys2Proof.Machine
end

