-- ==== Sys2Proof/Laws/PerInstr.lean ====
section
/-! SUPPORT. What holds of every command as syntax, one lemma per constructor. -/

namespace Sys2Proof.Laws.Named

open Sys2Proof.Machine

/-- A command with a request code has one of the 34 codes of R163, carries a request, and is well-formed exactly when
that request is; a command without a code names no request of the catalogue. -/
def Statement (i : Instr) : Prop :=
  match codeOf i with
  | some n => 1 ≤ n ∧ n ≤ 34 ∧ (serveCode n).isSome = true ∧ ∃ r, requestOf i = some r ∧ i.wf = r.wf
  | none => requestOf i = none ∨ ∃ origin payload, i = .unknownRequest origin payload

theorem identify (r : Request) : Statement (.identify r) := ⟨by decide, by decide, rfl, r, rfl, rfl⟩
theorem heartbeat (r : Request) : Statement (.heartbeat r) := ⟨by decide, by decide, rfl, r, rfl, rfl⟩
theorem readState (r : Request) : Statement (.readState r) := ⟨by decide, by decide, rfl, r, rfl, rfl⟩
theorem setMode (r : Request) : Statement (.setMode r) := ⟨by decide, by decide, rfl, r, rfl, rfl⟩
theorem writeLimits (r : Request) : Statement (.writeLimits r) := ⟨by decide, by decide, rfl, r, rfl, rfl⟩
theorem readLimits (r : Request) : Statement (.readLimits r) := ⟨by decide, by decide, rfl, r, rfl, rfl⟩
theorem mapFunction (r : Request) : Statement (.mapFunction r) := ⟨by decide, by decide, rfl, r, rfl, rfl⟩
theorem loadZoneMap (r : Request) : Statement (.loadZoneMap r) := ⟨by decide, by decide, rfl, r, rfl, rfl⟩
theorem loadStep (r : Request) : Statement (.loadStep r) := ⟨by decide, by decide, rfl, r, rfl, rfl⟩
theorem loadBlend (r : Request) : Statement (.loadBlend r) := ⟨by decide, by decide, rfl, r, rfl, rfl⟩
theorem loadConditioning (r : Request) : Statement (.loadConditioning r) := ⟨by decide, by decide, rfl, r, rfl, rfl⟩
theorem loadPadService (r : Request) : Statement (.loadPadService r) := ⟨by decide, by decide, rfl, r, rfl, rfl⟩
theorem loadProgram (r : Request) : Statement (.loadProgram r) := ⟨by decide, by decide, rfl, r, rfl, rfl⟩
theorem startHead (r : Request) : Statement (.startHead r) := ⟨by decide, by decide, rfl, r, rfl, rfl⟩
theorem pauseHead (r : Request) : Statement (.pauseHead r) := ⟨by decide, by decide, rfl, r, rfl, rfl⟩
theorem resumeHead (r : Request) : Statement (.resumeHead r) := ⟨by decide, by decide, rfl, r, rfl, rfl⟩
theorem skipStep (r : Request) : Statement (.skipStep r) := ⟨by decide, by decide, rfl, r, rfl, rfl⟩
theorem abortHead (r : Request) : Statement (.abortHead r) := ⟨by decide, by decide, rfl, r, rfl, rfl⟩
theorem readResult (r : Request) : Statement (.readResult r) := ⟨by decide, by decide, rfl, r, rfl, rfl⟩
theorem readProfile (r : Request) : Statement (.readProfile r) := ⟨by decide, by decide, rfl, r, rfl, rfl⟩
theorem setSource (r : Request) : Statement (.setSource r) := ⟨by decide, by decide, rfl, r, rfl, rfl⟩
theorem clearSource (r : Request) : Statement (.clearSource r) := ⟨by decide, by decide, rfl, r, rfl, rfl⟩
theorem simulateSource (r : Request) : Statement (.simulateSource r) := ⟨by decide, by decide, rfl, r, rfl, rfl⟩
theorem readConditions (r : Request) : Statement (.readConditions r) := ⟨by decide, by decide, rfl, r, rfl, rfl⟩
theorem setLevel (r : Request) : Statement (.setLevel r) := ⟨by decide, by decide, rfl, r, rfl, rfl⟩
theorem resumeLevel (r : Request) : Statement (.resumeLevel r) := ⟨by decide, by decide, rfl, r, rfl, rfl⟩
theorem releaseHold (r : Request) : Statement (.releaseHold r) := ⟨by decide, by decide, rfl, r, rfl, rfl⟩
theorem abortAll (r : Request) : Statement (.abortAll r) := ⟨by decide, by decide, rfl, r, rfl, rfl⟩
theorem storeRead (r : Request) : Statement (.storeRead r) := ⟨by decide, by decide, rfl, r, rfl, rfl⟩
theorem storeStage (r : Request) : Statement (.storeStage r) := ⟨by decide, by decide, rfl, r, rfl, rfl⟩
theorem storeCommit (r : Request) : Statement (.storeCommit r) := ⟨by decide, by decide, rfl, r, rfl, rfl⟩
theorem storeReload (r : Request) : Statement (.storeReload r) := ⟨by decide, by decide, rfl, r, rfl, rfl⟩
theorem replaceConsumable (r : Request) : Statement (.replaceConsumable r) := ⟨by decide, by decide, rfl, r, rfl, rfl⟩
theorem stationReset (r : Request) : Statement (.stationReset r) := ⟨by decide, by decide, rfl, r, rfl, rfl⟩
theorem unknownRequest (origin : Nat) (payload : List Byte) : Statement (.unknownRequest origin payload) := .inr ⟨origin, payload, rfl⟩
theorem portUReceive (bytes : List Byte) : Statement (.portUReceive bytes) := .inl rfl
theorem portDReceive (bytes : List Byte) : Statement (.portDReceive bytes) := .inl rfl
theorem lineLoss (p : PortName) : Statement (.lineLoss p) := .inl rfl
theorem transmitEnd (p : PortName) : Statement (.transmitEnd p) := .inl rfl
theorem stepTimerExpiry (h : Head) : Statement (.stepTimerExpiry h) := .inl rfl
theorem sampleGapExpiry (h : Head) : Statement (.sampleGapExpiry h) := .inl rfl
theorem arrivalTimerExpiry : Statement (.arrivalTimerExpiry) := .inl rfl
theorem dwellTimerExpiry : Statement (.dwellTimerExpiry) := .inl rfl
theorem deviationDwellExpiry (f : Fn) : Statement (.deviationDwellExpiry f) := .inl rfl
theorem supervisionExpiry : Statement (.supervisionExpiry) := .inl rfl
theorem commitCompletion : Statement (.commitCompletion) := .inl rfl
theorem hardwareReset : Statement (.hardwareReset) := .inl rfl
theorem resetRelease (straps : BitVec 6) (rateHigh : Bool) : Statement (.resetRelease straps rateHigh) := .inl rfl
theorem storeLoadDone : Statement (.storeLoadDone) := .inl rfl

end Sys2Proof.Laws.Named
end

