-- ==== Sys2Proof/Laws/Requests.lean ====
section
/-! SUPPORT. How a request is served, said once: what supervision does to the state an owning rule finds, and how an owning
rule's answer becomes the outcome of the command. -/

namespace Sys2Proof.Machine

/-! Taking and supervision (R160, R161, R175, R176). -/

/-- Taking a request writes the model's own mark alone. -/
theorem beginRequest_only (s : State) :
    { beginRequest s with mgmt := { (beginRequest s).mgmt with resetTaken := s.mgmt.resetTaken } } = s := rfl

@[simp] theorem beginRequest_active (s : State) : (beginRequest s).active = s.active := rfl
@[simp] theorem beginRequest_lim (s : State) : (beginRequest s).lim = s.lim := rfl

/-- Supervision writes the management unit and the condition unit alone. -/
theorem superviseRequest_only (origin : Nat) (s : State) :
    { superviseRequest origin s with mgmt := s.mgmt, cu := s.cu } = s := by
  unfold superviseRequest startSupervision endSupervisionLoss losePresence
  dsimp only
  split
  · split
    · split
      · split <;> rfl
      · rfl
    · rfl
  · rfl

/-- What supervision leaves of the management unit. -/
theorem superviseRequest_mgmt (origin : Nat) (s : State) :
    (superviseRequest origin s).mgmt =
      if origin = toolOrigin ∧ s.active = true then
        { s.mgmt with supLoss := false, supTimer := some (deadlineAfter s.base.time s.lim.supervisionTimeout) }
      else s.mgmt := by
  unfold superviseRequest startSupervision endSupervisionLoss losePresence
  dsimp only
  split
  · split
    · split
      · split <;> rfl
      · rfl
    · rename_i h
      have : s.mgmt.supLoss = false := by simpa using h
      simp [this]
  · rfl

theorem superviseRequest_of_interlock {origin : Nat} (s : State) (h : origin ≠ toolOrigin) :
    superviseRequest origin s = s := by
  simp [superviseRequest, h]

/-- Supervision leaves L and the level stack. -/
theorem superviseRequest_level (origin : Nat) (s : State) :
    (superviseRequest origin s).cu.level = s.cu.level ∧ (superviseRequest origin s).cu.stack = s.cu.stack := by
  unfold superviseRequest startSupervision endSupervisionLoss losePresence
  dsimp only
  split
  · split
    · split
      · split <;> exact ⟨rfl, rfl⟩
      · exact ⟨rfl, rfl⟩
    · exact ⟨rfl, rfl⟩
  · exact ⟨rfl, rfl⟩

/-- Supervision moves no source but SUPERVISION_LOSS. -/
theorem superviseRequest_source (origin : Nat) (s : State) {k : SourceId} (h : k ≠ .supervisionLoss) :
    (superviseRequest origin s).source k = s.source k := by
  have e : ∀ (x : Source), (s.cu.sources.set .supervisionLoss x).get k = s.cu.sources.get k :=
    fun x => PerSource.get_set_of_ne _ x h
  unfold superviseRequest startSupervision endSupervisionLoss losePresence
  dsimp only
  split
  · split
    · split
      · split <;> exact e _
      · rfl
    · rfl
  · rfl

/-- Supervision leaves the settings and the simulation flag of every source. -/
theorem superviseRequest_settings (origin : Nat) (s : State) (k : SourceId) :
    ((superviseRequest origin s).source k).enabled = (s.source k).enabled ∧
    ((superviseRequest origin s).source k).severity = (s.source k).severity ∧
    ((superviseRequest origin s).source k).action = (s.source k).action ∧
    ((superviseRequest origin s).source k).sim = (s.source k).sim := by
  by_cases h : k = .supervisionLoss
  · subst h
    unfold superviseRequest startSupervision endSupervisionLoss losePresence
    dsimp only
    split
    · split
      · split
        · split <;> exact ⟨rfl, rfl, rfl, rfl⟩
        · exact ⟨rfl, rfl, rfl, rfl⟩
      · exact ⟨rfl, rfl, rfl, rfl⟩
    · exact ⟨rfl, rfl, rfl, rfl⟩
  · rw [superviseRequest_source origin s h]; exact ⟨rfl, rfl, rfl, rfl⟩

/-! The state an owning rule finds. -/

/-- `served r s` differs from `s` in the management unit and the condition unit alone. -/
theorem served_only (r : Request) (s : State) : { served r s with mgmt := s.mgmt, cu := s.cu } = s :=
  congrArg (fun t : State => { t with mgmt := s.mgmt, cu := s.cu }) (superviseRequest_only r.origin (beginRequest s))

theorem served_field {α : Type} (f : State → α) (e : ∀ (t : State) (m : Management) (c : ConditionUnit),
    f { t with mgmt := m, cu := c } = f t) (r : Request) (s : State) : f (served r s) = f s := by
  rw [← e (served r s) s.mgmt s.cu, served_only]

@[simp] theorem served_base (r : Request) (s : State) : (served r s).base = s.base := served_field _ (fun _ _ _ => rfl) r s
@[simp] theorem served_pending (r : Request) (s : State) : (served r s).pending = s.pending :=
  served_field _ (fun _ _ _ => rfl) r s
@[simp] theorem served_choice (r : Request) (s : State) : (served r s).choice = s.choice :=
  served_field _ (fun _ _ _ => rfl) r s
@[simp] theorem served_seqs (r : Request) (s : State) : (served r s).seqs = s.seqs := served_field _ (fun _ _ _ => rfl) r s
@[simp] theorem served_seq (r : Request) (s : State) (h : Head) : (served r s).seq h = s.seq h :=
  served_field (fun t => t.seq h) (fun _ _ _ => rfl) r s
@[simp] theorem served_steps (r : Request) (s : State) : (served r s).steps = s.steps :=
  served_field _ (fun _ _ _ => rfl) r s
@[simp] theorem served_samplers (r : Request) (s : State) : (served r s).samplers = s.samplers :=
  served_field _ (fun _ _ _ => rfl) r s
@[simp] theorem served_sampler (r : Request) (s : State) (h : Head) : (served r s).sampler h = s.sampler h :=
  served_field (fun t => t.sampler h) (fun _ _ _ => rfl) r s
@[simp] theorem served_comps (r : Request) (s : State) : (served r s).comps = s.comps :=
  served_field _ (fun _ _ _ => rfl) r s
@[simp] theorem served_arb (r : Request) (s : State) : (served r s).arb = s.arb := served_field _ (fun _ _ _ => rfl) r s
@[simp] theorem served_dose (r : Request) (s : State) : (served r s).dose = s.dose := served_field _ (fun _ _ _ => rfl) r s
@[simp] theorem served_cdr (r : Request) (s : State) : (served r s).cdr = s.cdr := served_field _ (fun _ _ _ => rfl) r s
@[simp] theorem served_store (r : Request) (s : State) : (served r s).store = s.store :=
  served_field _ (fun _ _ _ => rfl) r s
@[simp] theorem served_fmap (r : Request) (s : State) : (served r s).fmap = s.fmap := served_field _ (fun _ _ _ => rfl) r s
@[simp] theorem served_slots (r : Request) (s : State) : (served r s).slots = s.slots :=
  served_field _ (fun _ _ _ => rfl) r s
@[simp] theorem served_portU (r : Request) (s : State) : (served r s).portU = s.portU :=
  served_field _ (fun _ _ _ => rfl) r s
@[simp] theorem served_portD (r : Request) (s : State) : (served r s).portD = s.portD :=
  served_field _ (fun _ _ _ => rfl) r s
@[simp] theorem served_fwd (r : Request) (s : State) : (served r s).fwd = s.fwd := served_field _ (fun _ _ _ => rfl) r s

/-- The management unit that an owning rule finds. -/
theorem served_mgmt (r : Request) (s : State) :
    (served r s).mgmt =
      if r.origin = toolOrigin ∧ s.active = true then
        { s.mgmt with resetTaken := false, supLoss := false
                      supTimer := some (deadlineAfter s.base.time s.lim.supervisionTimeout) }
      else { s.mgmt with resetTaken := false } := by
  rw [served, superviseRequest_mgmt]; rfl

@[simp] theorem served_resetTaken (r : Request) (s : State) : (served r s).mgmt.resetTaken = false := by
  rw [served_mgmt]; split <;> rfl
@[simp] theorem served_mode (r : Request) (s : State) : (served r s).mgmt.mode = s.mgmt.mode := by
  rw [served_mgmt]; split <;> rfl
@[simp] theorem served_limits (r : Request) (s : State) : (served r s).mgmt.limits = s.mgmt.limits := by
  rw [served_mgmt]; split <;> rfl
@[simp] theorem served_events (r : Request) (s : State) : (served r s).mgmt.events = s.mgmt.events := by
  rw [served_mgmt]; split <;> rfl
@[simp] theorem served_dropped (r : Request) (s : State) : (served r s).mgmt.dropped = s.mgmt.dropped := by
  rw [served_mgmt]; split <;> rfl
@[simp] theorem served_responses (r : Request) (s : State) : (served r s).mgmt.responses = s.mgmt.responses := by
  rw [served_mgmt]; split <;> rfl
@[simp] theorem served_heldBack (r : Request) (s : State) : (served r s).mgmt.heldBack = s.mgmt.heldBack := by
  rw [served_mgmt]; split <;> rfl
@[simp] theorem served_requests (r : Request) (s : State) : (served r s).mgmt.requests = s.mgmt.requests := by
  rw [served_mgmt]; split <;> rfl
@[simp] theorem served_active (r : Request) (s : State) : (served r s).active = s.active := by
  simp [State.active]
@[simp] theorem served_lim (r : Request) (s : State) : (served r s).lim = s.lim := by simp [State.lim]
@[simp] theorem served_level (r : Request) (s : State) : (served r s).cu.level = s.cu.level :=
  (superviseRequest_level r.origin (beginRequest s)).1
@[simp] theorem served_stack (r : Request) (s : State) : (served r s).cu.stack = s.cu.stack :=
  (superviseRequest_level r.origin (beginRequest s)).2

theorem served_of_interlock {r : Request} (s : State) (h : r.origin ≠ 0) : served r s = beginRequest s :=
  superviseRequest_of_interlock _ h

theorem served_of_transparent {r : Request} {s : State} (h : s.mgmt.mode = .transparent) :
    served r s = beginRequest s := by
  have : s.active = false := by simp [State.active, h]
  simp [served, superviseRequest, this]

/-! From the owning rule's answer to the outcome. -/

/-- A request taken at once is served, answered, and the transmitters choose. -/
theorem request_of_admitted {r : Request} {s : State} (code : Nat) (serve : Request → State → State × Answer)
    (h : Admitted r s) :
    request code serve r s =
      settle (respond r.origin r.tag (serve r (beginRequest s)).2 (serve r (beginRequest s)).1) := by
  simp [request, h.1, h.2.1, completeRequest]

/-- The owning rule is asked about the walked arguments, on the state supervision left. -/
theorem serveRequest_of_walk {α : Type} {shape : Walk α} {owner : Request → α → State → State × Answer} {r : Request}
    {s : State} {a : α} (h : Admitted r s) (w : wholeWalk shape r.args = some a) :
    serveRequest shape owner r (beginRequest s) = owner r a (served r s) := by
  simp [serveRequest, h.2.2, w, served]

/-- Without a station reset the response goes to the response queue. -/
theorem respond_plain {dest : Nat} {tag : Byte} {a : Answer} {s : State} (h : s.mgmt.resetTaken = false) :
    respond dest tag a s =
      { s with mgmt := { s.mgmt with
          responses := s.mgmt.responses ++ [{ dest, tag, outcome := a.outcome, results := a.results }] } } := by
  simp [respond, h]

/-- The outcome of a request whose owning rule answers `a` and leaves `t` without a station reset. -/
theorem request_completes {α : Type} {shape : Walk α} {owner : Request → α → State → State × Answer} {r : Request}
    {s t : State} {x : α} {o : OutcomeCode} {results : List Byte} (code : Nat) (h : Admitted r s)
    (w : wholeWalk shape r.args = some x) (e : owner r x (served r s) = (t, { outcome := o, results }))
    (plain : t.mgmt.resetTaken = false) :
    (.next (request code (serveRequest shape owner) r s) : Result) = completes r o results t := by
  rw [request_of_admitted code _ h, serveRequest_of_walk h w, e, respond_plain plain]
  rfl

/-- A refusal by the owning rule changes nothing. -/
theorem request_refused {α : Type} {shape : Walk α} {owner : Request → α → State → State × Answer} {r : Request}
    {s : State} {x : α} {o : OutcomeCode} (code : Nat) (h : Admitted r s) (w : wholeWalk shape r.args = some x)
    (e : owner r x (served r s) = refuse (served r s) o) :
    (.next (request code (serveRequest shape owner) r s) : Result) = completes r o [] (served r s) :=
  request_completes code h w e (served_resetTaken r s)

end Sys2Proof.Machine
end

