-- ==== Sys2Proof/Laws/Queue.lean ====
section
/-! SUPPORT. What waits behind the request that is served: no operation reads the request queue, and none but a station
reset writes it. `withRequests` puts a queue into a state; `behind` does so too, but leaves the queue empty once a station
reset was taken, and every service of a request passes over it. -/

namespace Sys2Proof.Machine

/-- The state with this request queue. -/
def State.withRequests (s : State) (q : List QueuedRequest) : State := { s with mgmt := { s.mgmt with requests := q } }

/-! Reading. -/

@[simp] theorem withRequests_pending (s : State) (q : List QueuedRequest) :
    (s.withRequests q).pending = s.pending := rfl
@[simp] theorem withRequests_base (s : State) (q : List QueuedRequest) : (s.withRequests q).base = s.base := rfl
@[simp] theorem withRequests_portU (s : State) (q : List QueuedRequest) : (s.withRequests q).portU = s.portU := rfl
@[simp] theorem withRequests_portD (s : State) (q : List QueuedRequest) : (s.withRequests q).portD = s.portD := rfl
@[simp] theorem withRequests_fwd (s : State) (q : List QueuedRequest) : (s.withRequests q).fwd = s.fwd := rfl
@[simp] theorem withRequests_fmap (s : State) (q : List QueuedRequest) : (s.withRequests q).fmap = s.fmap := rfl
@[simp] theorem withRequests_slots (s : State) (q : List QueuedRequest) : (s.withRequests q).slots = s.slots := rfl
@[simp] theorem withRequests_samplers (s : State) (q : List QueuedRequest) :
    (s.withRequests q).samplers = s.samplers := rfl
@[simp] theorem withRequests_seqs (s : State) (q : List QueuedRequest) : (s.withRequests q).seqs = s.seqs := rfl
@[simp] theorem withRequests_steps (s : State) (q : List QueuedRequest) : (s.withRequests q).steps = s.steps := rfl
@[simp] theorem withRequests_comps (s : State) (q : List QueuedRequest) : (s.withRequests q).comps = s.comps := rfl
@[simp] theorem withRequests_arb (s : State) (q : List QueuedRequest) : (s.withRequests q).arb = s.arb := rfl
@[simp] theorem withRequests_dose (s : State) (q : List QueuedRequest) : (s.withRequests q).dose = s.dose := rfl
@[simp] theorem withRequests_cdr (s : State) (q : List QueuedRequest) : (s.withRequests q).cdr = s.cdr := rfl
@[simp] theorem withRequests_cu (s : State) (q : List QueuedRequest) : (s.withRequests q).cu = s.cu := rfl
@[simp] theorem withRequests_store (s : State) (q : List QueuedRequest) : (s.withRequests q).store = s.store := rfl
@[simp] theorem withRequests_choice (s : State) (q : List QueuedRequest) : (s.withRequests q).choice = s.choice := rfl
@[simp] theorem withRequests_mgmt (s : State) (q : List QueuedRequest) :
    (s.withRequests q).mgmt = { s.mgmt with requests := q } := rfl
@[simp] theorem withRequests_seq (s : State) (q : List QueuedRequest) (x : Head) :
    (s.withRequests q).seq x = s.seq x := rfl
@[simp] theorem withRequests_sampler (s : State) (q : List QueuedRequest) (x : Head) :
    (s.withRequests q).sampler x = s.sampler x := rfl
@[simp] theorem withRequests_comp (s : State) (q : List QueuedRequest) (x : Head) :
    (s.withRequests q).comp x = s.comp x := rfl
@[simp] theorem withRequests_fn (s : State) (q : List QueuedRequest) (x : Fn) : (s.withRequests q).fn x = s.fn x := rfl
@[simp] theorem withRequests_offset (s : State) (q : List QueuedRequest) (x : Fn) :
    (s.withRequests q).offset x = s.offset x := rfl
@[simp] theorem withRequests_source (s : State) (q : List QueuedRequest) (x : SourceId) :
    (s.withRequests q).source x = s.source x := rfl
@[simp] theorem withRequests_currentStep (s : State) (q : List QueuedRequest) (x : Head) :
    (s.withRequests q).currentStep x = s.currentStep x := rfl
@[simp] theorem withRequests_active (s : State) (q : List QueuedRequest) : (s.withRequests q).active = s.active := rfl
@[simp] theorem withRequests_lim (s : State) (q : List QueuedRequest) : (s.withRequests q).lim = s.lim := rfl
@[simp] theorem withRequests_grantedEntry (s : State) (q : List QueuedRequest) :
    grantedEntry (s.withRequests q) = grantedEntry s := rfl
@[simp] theorem withRequests_headWorking (s : State) (q : List QueuedRequest) (x : Head) :
    headWorking (s.withRequests q) x = headWorking s x := rfl
@[simp] theorem withRequests_nextTaken (s : State) (q : List QueuedRequest) :
    nextTaken (s.withRequests q) = nextTaken s := rfl
@[simp] theorem withRequests_resetsStation (s : State) (q : List QueuedRequest) (x : Source) :
    resetsStation (s.withRequests q) x = resetsStation s x := rfl
@[simp] theorem withRequests_groupDeviated (s : State) (q : List QueuedRequest) (x : SourceId) :
    groupDeviated (s.withRequests q) x = groupDeviated s x := rfl
@[simp] theorem withRequests_padIsWorn (s : State) (q : List QueuedRequest) :
    padIsWorn (s.withRequests q) = padIsWorn s := rfl
@[simp] theorem withRequests_diskIsWorn (s : State) (q : List QueuedRequest) :
    diskIsWorn (s.withRequests q) = diskIsWorn s := rfl
@[simp] theorem withRequests_bothWearBegin (s : State) (q : List QueuedRequest) :
    bothWearBegin (s.withRequests q) = bothWearBegin s := rfl
@[simp] theorem withRequests_partAuthority (s : State) (q : List QueuedRequest) (x : Fn) :
    partAuthority (s.withRequests q) x = partAuthority s x := rfl
@[simp] theorem withRequests_channelOk (s : State) (q : List QueuedRequest) (x : NodeChannel) :
    channelOk (s.withRequests q) x = channelOk s x := rfl

/-! Writing. -/

@[simp] theorem withRequests_setSeq (s : State) (q : List QueuedRequest) (h : Head) (x : Sequencer) :
    (s.withRequests q).setSeq h x = (s.setSeq h x).withRequests q := rfl
@[simp] theorem withRequests_setSampler (s : State) (q : List QueuedRequest) (h : Head) (x : Sampler) :
    (s.withRequests q).setSampler h x = (s.setSampler h x).withRequests q := rfl
@[simp] theorem withRequests_setComp (s : State) (q : List QueuedRequest) (h : Head) (x : Option Computation) :
    (s.withRequests q).setComp h x = (s.setComp h x).withRequests q := rfl
@[simp] theorem withRequests_setFn (s : State) (q : List QueuedRequest) (f : Fn) (x : FnState) :
    (s.withRequests q).setFn f x = (s.setFn f x).withRequests q := rfl
@[simp] theorem withRequests_setSource (s : State) (q : List QueuedRequest) (k : SourceId) (x : Source) :
    (s.withRequests q).setSource k x = (s.setSource k x).withRequests q := rfl
@[simp] theorem withRequests_setArb (s : State) (q : List QueuedRequest) (x : Arbiter) :
    (s.withRequests q).setArb x = (s.setArb x).withRequests q := rfl
@[simp] theorem withRequests_setRun (s : State) (q : List QueuedRequest) (x : Option CondRun) :
    (s.withRequests q).setRun x = (s.setRun x).withRequests q := rfl
@[simp] theorem withRequests_setStore (s : State) (q : List QueuedRequest) (x : ParameterStore) :
    (s.withRequests q).setStore x = (s.setStore x).withRequests q := rfl
@[simp] theorem withRequests_choicesTaken (s : State) (q : List QueuedRequest) (n : Nat) :
    (s.withRequests q).choicesTaken n = (s.choicesTaken n).withRequests q := rfl
@[simp] theorem withRequests_queueEvent (s : State) (q : List QueuedRequest) (k : EventKind) (h : Option Head) (d : List (BitVec 32)) :
    queueEvent k h d (s.withRequests q) = (queueEvent k h d s).withRequests q := by
  unfold queueEvent
  by_cases e : s.mgmt.events.length < Config.eventCapacity <;>
    simp only [withRequests_mgmt, e, if_true, if_false] <;> rfl
@[simp] theorem withRequests_writeSlot (s : State) (q : List QueuedRequest) (f : Fn) (v : Nat) :
    writeSlot f v (s.withRequests q) = (writeSlot f v s).withRequests q := by
  unfold writeSlot
  by_cases e : s.active <;> simp only [withRequests_active, e, if_true, if_false, Bool.false_eq_true]
  rfl
@[simp] theorem withRequests_writeSlots (s : State) (q : List QueuedRequest) (ws : List (Fn × Nat)) :
    writeSlots ws (s.withRequests q) = (writeSlots ws s).withRequests q := by
  induction ws generalizing s with
  | nil => rfl
  | cons w ws ih => simpa [writeSlots] using ih (writeSlot w.1 w.2 s)
@[simp] theorem withRequests_writeDosing (s : State) (q : List QueuedRequest) (d : Dose) :
    writeDosing d (s.withRequests q) = (writeDosing d s).withRequests q := by
  unfold writeDosing; by_cases e : s.active <;>
    simp only [withRequests_active, e, if_true, if_false, Bool.false_eq_true]
  exact withRequests_writeSlots { s with dose := { s.dose with current := some d } } q _
@[simp] theorem withRequests_doseEntry (s : State) (q : List QueuedRequest) (e n : Nat) :
    doseEntry e n (s.withRequests q) = (doseEntry e n s).withRequests q := withRequests_writeDosing s q _
@[simp] theorem withRequests_enterTravel (s : State) (q : List QueuedRequest) (r : CondRun) (n : Nat) (g : Segment) :
    enterTravel r n g (s.withRequests q) = (enterTravel r n g s).withRequests q := by simp [enterTravel]
@[simp] theorem withRequests_startProgram (s : State) (q : List QueuedRequest) (k : Nat) :
    startProgram k (s.withRequests q) = (startProgram k s).withRequests q := by
  simp only [startProgram, withRequests_cdr, withRequests_lim]
  repeat' split <;> simp_all
@[simp] theorem withRequests_conditionEntry (s : State) (q : List QueuedRequest) (e : Nat) :
    conditionEntry e (s.withRequests q) = (conditionEntry e s).withRequests q := by
  simp only [conditionEntry, withRequests_arb, withRequests_lim]
  split <;> simp_all
@[simp] theorem withRequests_stopProgram (s : State) (q : List QueuedRequest) :
    stopProgram (s.withRequests q) = (stopProgram s).withRequests q := rfl
@[simp] theorem withRequests_commandAll (s : State) (q : List QueuedRequest) (h : Head) (p : PerArea Nat) :
    commandAll h p (s.withRequests q) = (commandAll h p s).withRequests q := by simp [commandAll]
@[simp] theorem withRequests_writeHoldPressures (s : State) (q : List QueuedRequest) (h : Head) :
    writeHoldPressures h (s.withRequests q) = (writeHoldPressures h s).withRequests q := by simp [writeHoldPressures]
@[simp] theorem withRequests_clearSweeps (s : State) (q : List QueuedRequest) (h : Head) :
    clearSweeps h (s.withRequests q) = (clearSweeps h s).withRequests q := rfl
@[simp] theorem withRequests_freshGap (s : State) (q : List QueuedRequest) (x : StepRecord) :
    freshGap (s.withRequests q) x = freshGap s x := rfl
@[simp] theorem withRequests_polishingEntry (s : State) (q : List QueuedRequest) (h : Head) :
    polishingEntry h (s.withRequests q) = (polishingEntry h s).withRequests q := by
  simp only [polishingEntry, withRequests_currentStep]
  split <;> simp_all
@[simp] theorem withRequests_pauseHead (s : State) (q : List QueuedRequest) (h : Head) :
    pauseHead h (s.withRequests q) = (pauseHead h s).withRequests q := rfl
@[simp] theorem withRequests_resumeHead (s : State) (q : List QueuedRequest) (h : Head) :
    resumeHead h (s.withRequests q) = (resumeHead h s).withRequests q := rfl
@[simp] theorem withRequests_pauseAction (s : State) (q : List QueuedRequest) (h : Head) :
    pauseAction h (s.withRequests q) = (pauseAction h s).withRequests q := by
  unfold pauseAction; by_cases e : (s.seq h).state = .polishing <;> simp [e]
@[simp] theorem withRequests_writeIdleValues (s : State) (q : List QueuedRequest) :
    writeIdleValues (s.withRequests q) = (writeIdleValues s).withRequests q := by simp [writeIdleValues]
@[simp] theorem withRequests_writeHoldValues (s : State) (q : List QueuedRequest) :
    writeHoldValues (s.withRequests q) = (writeHoldValues s).withRequests q := by simp [writeHoldValues]
@[simp] theorem withRequests_startEntry (s : State) (q : List QueuedRequest) (h : Head) (e : Nat) :
    startEntry h e (s.withRequests q) = (startEntry h e s).withRequests q := by simp [startEntry]
@[simp] theorem withRequests_grantWaiting (s : State) (q : List QueuedRequest) (h : Head) :
    grantWaiting h (s.withRequests q) = (grantWaiting h s).withRequests q := by
  unfold grantWaiting; by_cases e : (s.seq h).state = .waitPad <;> simp [e]
@[simp] theorem withRequests_joinService (s : State) (q : List QueuedRequest) (h : Head) (g : Grant) :
    joinService h g (s.withRequests q) = (joinService h g s).withRequests q := by simp [joinService]
@[simp] theorem withRequests_releasePad (s : State) (q : List QueuedRequest) (h : Head) :
    releasePad h (s.withRequests q) = (releasePad h s).withRequests q := by
  unfold releasePad
  simp only [withRequests_arb]
  split
  · rfl
  · rename_i g _
    by_cases c : g.holders.get h
    · simp only [c, if_true]
      repeat' split
      all_goals simp_all
    · simp [c]
@[simp] theorem withRequests_withdraw (s : State) (q : List QueuedRequest) (h : Head) :
    withdraw h (s.withRequests q) = (withdraw h s).withRequests q := rfl
@[simp] theorem withRequests_enterWaitPad (s : State) (q : List QueuedRequest) (h : Head) (e : Nat) :
    enterWaitPad h e (s.withRequests q) = (enterWaitPad h e s).withRequests q := by simp [enterWaitPad]
@[simp] theorem withRequests_releaseOther (s : State) (q : List QueuedRequest) (h : Head) (e : Nat) :
    releaseOther h e (s.withRequests q) = (releaseOther h e s).withRequests q := by
  unfold releaseOther; by_cases c : grantedEntry s = some e <;> simp [c]
@[simp] theorem withRequests_decideRequest (s : State) (q : List QueuedRequest) (h : Head) (e : Nat) :
    decideRequest h e (s.withRequests q) = (decideRequest h e s).withRequests q := by
  unfold decideRequest
  by_cases c : s.arb.hold
  · simp [c]
  · simp only [withRequests_arb, c, if_false, Bool.false_eq_true]
    repeat' split
    all_goals simp_all
@[simp] theorem withRequests_requestPad (s : State) (q : List QueuedRequest) (h : Head) (e : Nat) :
    requestPad h e (s.withRequests q) = (requestPad h e s).withRequests q := by simp [requestPad]
@[simp] theorem withRequests_beginHold (s : State) (q : List QueuedRequest) :
    beginHold (s.withRequests q) = (beginHold s).withRequests q := by
  unfold beginHold; by_cases e : s.arb.hold <;> simp [e]
@[simp] theorem withRequests_joinSecond (s : State) (q : List QueuedRequest) (e : Nat) :
    joinSecond e (s.withRequests q) = (joinSecond e s).withRequests q := by
  simp only [joinSecond, withRequests_arb]
  repeat' split <;> simp_all
@[simp] theorem withRequests_endHold (s : State) (q : List QueuedRequest) :
    endHold (s.withRequests q) = (endHold s).withRequests q := by
  unfold endHold
  by_cases c : s.arb.hold
  · simp only [withRequests_arb, withRequests_setArb, withRequests_queueEvent, c, if_true]
    split <;> simp_all
  · simp [c]
@[simp] theorem withRequests_stepEntry (s : State) (q : List QueuedRequest) (h : Head) :
    stepEntry h (s.withRequests q) = (stepEntry h s).withRequests q := by
  simp only [stepEntry, withRequests_seq, withRequests_currentStep, withRequests_setSeq, withRequests_queueEvent]
  repeat' split <;> simp_all
@[simp] theorem withRequests_raiseWafers (s : State) (q : List QueuedRequest) :
    raiseWafers (s.withRequests q) = (raiseWafers s).withRequests q := rfl
@[simp] theorem withRequests_requestWearWrite (s : State) (q : List QueuedRequest) :
    requestWearWrite (s.withRequests q) = (requestWearWrite s).withRequests q := by
  simp only [requestWearWrite, withRequests_store]
  split <;> rfl
@[simp] theorem withRequests_enterDone (s : State) (q : List QueuedRequest) (h : Head) :
    enterDone h (s.withRequests q) = (enterDone h s).withRequests q := by simp [enterDone]
@[simp] theorem withRequests_stepResult (s : State) (q : List QueuedRequest) (h : Head) (c : EndCause) (p : InProgress) :
    stepResult (s.withRequests q) h c p = stepResult s h c p := rfl
@[simp] theorem withRequests_closeStep (s : State) (q : List QueuedRequest) (h : Head) (c : EndCause) :
    closeStep h c (s.withRequests q) = (closeStep h c s).withRequests q := by
  simp only [closeStep, withRequests_seq, withRequests_base, withRequests_setSeq, withRequests_stepResult]
  split <;> simp_all
@[simp] theorem withRequests_endStep (s : State) (q : List QueuedRequest) (h : Head) (c : EndCause) :
    endStep h c (s.withRequests q) = (endStep h c s).withRequests q := by
  simp only [endStep, withRequests_closeStep, withRequests_seq, withRequests_setSeq]
  repeat' split <;> simp_all
@[simp] theorem withRequests_leavePad (s : State) (q : List QueuedRequest) (h : Head) :
    leavePad h (s.withRequests q) = (leavePad h s).withRequests q := by
  unfold leavePad; by_cases e : (s.seq h).state = .waitPad <;> simp [e]
@[simp] theorem withRequests_abortHead (s : State) (q : List QueuedRequest) (h : Head) :
    abortHead h (s.withRequests q) = (abortHead h s).withRequests q := by
  simp only [abortHead, withRequests_leavePad, withRequests_writeHoldPressures, withRequests_seq, withRequests_base, withRequests_setSeq]
  split <;> simp_all
@[simp] theorem withRequests_abortIfWorking (s : State) (q : List QueuedRequest) (h : Head) :
    abortIfWorking h (s.withRequests q) = (abortIfWorking h s).withRequests q := by
  unfold abortIfWorking; by_cases e : headWorking s h <;> simp [e]
@[simp] theorem withRequests_holdAction (s : State) (q : List QueuedRequest) (h : Head) :
    holdAction h (s.withRequests q) = (holdAction h s).withRequests q := by
  simp only [holdAction, withRequests_seq, withRequests_leavePad, withRequests_base, withRequests_setSeq]
  split <;> simp_all
@[simp] theorem withRequests_skipStep (s : State) (q : List QueuedRequest) (h : Head) :
    skipStep h (s.withRequests q) = (skipStep h s).withRequests q := by
  unfold skipStep; by_cases e : (s.seq h).state = .waitPad <;> simp [e]
@[simp] theorem withRequests_applyAction (s : State) (q : List QueuedRequest) (k : SourceId) :
    applyAction k (s.withRequests q) = (applyAction k s).withRequests q := by
  simp only [applyAction, withRequests_source]
  split <;> simp_all
@[simp] theorem withRequests_startHead (s : State) (q : List QueuedRequest) (h : Head) :
    startHead h (s.withRequests q) = (startHead h s).withRequests q := by simp [startHead]
@[simp] theorem withRequests_raiseLevel (s : State) (q : List QueuedRequest) (k : SourceId) :
    raiseLevel k (s.withRequests q) = (raiseLevel k s).withRequests q := rfl
@[simp] theorem withRequests_takeSource (s : State) (q : List QueuedRequest) (k : SourceId) :
    takeSource k (s.withRequests q) = (takeSource k s).withRequests q := by
  unfold takeSource; by_cases e : resetsStation s (s.source k) <;> simp [e]
@[simp] theorem withRequests_losePresence (s : State) (q : List QueuedRequest) (k : SourceId) :
    losePresence k (s.withRequests q) = (losePresence k s).withRequests q := by
  unfold losePresence; by_cases a : (s.source k).real <;> by_cases b : (s.source k).sim <;> simp [a, b]
@[simp] theorem withRequests_endSimulation (s : State) (q : List QueuedRequest) (k : SourceId) :
    endSimulation k (s.withRequests q) = (endSimulation k s).withRequests q := by
  unfold endSimulation; by_cases e : (s.source k).real <;> simp [e]
@[simp] theorem withRequests_repend (s : State) (q : List QueuedRequest) :
    repend (s.withRequests q) = (repend s).withRequests q := rfl
@[simp] theorem withRequests_returnInBand (s : State) (q : List QueuedRequest) (f : Fn) :
    returnInBand f (s.withRequests q) = (returnInBand f s).withRequests q := by
  unfold returnInBand
  simp only [withRequests_fn, withRequests_setFn, withRequests_groupDeviated]
  repeat' split
  all_goals simp_all
@[simp] theorem withRequests_remapFn (s : State) (q : List QueuedRequest) (f : Fn) (c : Option NodeChannel) :
    remapFn f c (s.withRequests q) = (remapFn f c s).withRequests q := by simp [remapFn]
@[simp] theorem withRequests_remapSensor (s : State) (q : List QueuedRequest) (c : Option NodeChannel) :
    remapSensor c (s.withRequests q) = (remapSensor c s).withRequests q := rfl
@[simp] theorem withRequests_remapKey (s : State) (q : List QueuedRequest) (k : MapKey) (c : Option NodeChannel) :
    remapKey k c (s.withRequests q) = (remapKey k c s).withRequests q := by
  cases k <;> simp [remapKey]
@[simp] theorem withRequests_startSupervision (s : State) (q : List QueuedRequest) :
    startSupervision (s.withRequests q) = (startSupervision s).withRequests q := rfl
@[simp] theorem withRequests_endSupervisionLoss (s : State) (q : List QueuedRequest) :
    endSupervisionLoss (s.withRequests q) = (endSupervisionLoss s).withRequests q := by
  unfold endSupervisionLoss
  by_cases e : s.mgmt.supLoss <;> simp only [withRequests_mgmt, e, if_true, if_false, Bool.false_eq_true]
  exact withRequests_losePresence { s with mgmt := { s.mgmt with supLoss := false } } q _
@[simp] theorem withRequests_superviseRequest (s : State) (q : List QueuedRequest) (o : Nat) :
    superviseRequest o (s.withRequests q) = (superviseRequest o s).withRequests q := by
  unfold superviseRequest; by_cases e : o = toolOrigin ∧ s.active = true <;> simp [e]
@[simp] theorem withRequests_beginRequest (s : State) (q : List QueuedRequest) :
    beginRequest (s.withRequests q) = (beginRequest s).withRequests q := rfl
@[simp] theorem withRequests_abortHeads (s : State) (q : List QueuedRequest) :
    abortHeads (s.withRequests q) = (abortHeads s).withRequests q := by
  unfold abortHeads
  by_cases a : headWorking s .a <;> by_cases b : headWorking s .b <;> simp only [withRequests_headWorking, a, b]
  all_goals by_cases c : pickIndex s.choice 2 = 1 <;> simp [c]
@[simp] theorem withRequests_abortAll (s : State) (q : List QueuedRequest) :
    abortAll (s.withRequests q) = (abortAll s).withRequests q := by
  simp only [abortAll, withRequests_beginHold, withRequests_abortHeads]
  rfl
@[simp] theorem withRequests_loseGroup (b s : State) (q : List QueuedRequest) (k : SourceId) :
    loseGroup b (s.withRequests q) k = (loseGroup b s k).withRequests q := by
  unfold loseGroup; by_cases c : groupDeviated b k <;> simp [c]
@[simp] theorem withRequests_loseGroup_before (b s : State) (q : List QueuedRequest) (k : SourceId) :
    loseGroup (b.withRequests q) s k = loseGroup b s k := rfl
@[simp] theorem withRequests_clearMonitors (s : State) (q : List QueuedRequest) :
    clearMonitors (s.withRequests q) = (clearMonitors s).withRequests q := by
  have e : ∀ (ks : List SourceId) (t : State), ks.foldl (loseGroup (s.withRequests q)) (t.withRequests q) =
      (ks.foldl (loseGroup s) t).withRequests q := by
    intro ks
    induction ks with
    | nil => intro t; rfl
    | cons k ks ih => intro t; simpa using ih (loseGroup s t k)
  exact e _ { s with
    slots := PerFn.fill none
    fmap := { s.fmap with fns := PerFn.tabulate fun f => transparentFn (s.fmap.fns.get f) } }

/-! The transmitters' choice. -/

@[simp] theorem withRequests_departSlot (s : State) (q : List QueuedRequest) (f : Fn) :
    departSlot (s.withRequests q) f = (departSlot s f).withRequests q := by
  simp only [departSlot, withRequests_slots]; split <;> rfl
@[simp] theorem withRequests_departSlots (s : State) (q : List QueuedRequest) (gs : List (Nat × Fn)) :
    gs.foldl (fun s g => departSlot s g.2) (s.withRequests q) =
      (gs.foldl (fun s g => departSlot s g.2) s).withRequests q := by
  induction gs generalizing s with
  | nil => rfl
  | cons g gs ih => simpa using ih (departSlot s g.2)
theorem withRequests_setpointFrame (s : State) (q : List QueuedRequest) :
    setpointFrame (s.withRequests q) = (setpointFrame s).map fun x => (x.1, x.2.withRequests q) := by
  have a : (oldestSlot (s.withRequests q)).bind (fun f => (s.fn f).assign) =
    (oldestSlot s).bind (fun f => (s.fn f).assign) := rfl
  have b : ∀ n, gatheredSlots (s.withRequests q) n = gatheredSlots s n := fun _ => rfl
  have c : ∀ n f, slotRecord (s.withRequests q) n f = slotRecord s n f := fun _ _ => rfl
  simp only [setpointFrame, withRequests_fn, a]
  split <;> simp [b, c]
@[simp] theorem withRequests_sendOwnD (s : State) (q : List QueuedRequest) :
    sendOwnD (s.withRequests q) = (sendOwnD s).withRequests q := by
  simp only [sendOwnD, withRequests_setpointFrame]
  cases setpointFrame s <;> rfl
@[simp] theorem withRequests_markClamped (s : State) (q : List QueuedRequest) (fs : List Fn) :
    markClamped fs (s.withRequests q) = (markClamped fs s).withRequests q := by
  unfold markClamped
  induction fs generalizing s with
  | nil => rfl
  | cons f fs ih => simpa using ih (s.setFn f { s.fn f with clamped := true })
@[simp] theorem withRequests_recordForwarded (s : State) (q : List QueuedRequest) (n : Nat) (rs : List SetpointRecord) :
    recordForwarded n rs (s.withRequests q) = (recordForwarded n rs s).withRequests q := by
  unfold recordForwarded
  induction rs generalizing s with
  | nil => rfl
  | cons r rs ih =>
    have e : fnAt (s.withRequests q) n r.channel.toNat = fnAt s n r.channel.toNat := rfl
    simp only [List.foldl_cons, e]
    cases fnAt s n r.channel.toNat with
    | none => exact ih s
    | some f => exact ih (s.setFn f { s.fn f with
        lastTx := some { node := r.value, value := functionValue s f r.value }, echo := 0 })
theorem withRequests_judgeFrame (s : State) (q : List QueuedRequest) (frame : List Byte) :
    judgeFrame frame (s.withRequests q) = ((judgeFrame frame s).1, (judgeFrame frame s).2.withRequests q) := by
  have e : ∀ n, judgeRecord (s.withRequests q) n = judgeRecord s n := fun _ => rfl
  have m : ∀ n, nodeMapped (s.withRequests q) n = nodeMapped s n := fun _ => rfl
  simp only [judgeFrame, e, m, withRequests_active, withRequests_markClamped, withRequests_recordForwarded]
  repeat' split
  all_goals rfl
@[simp] theorem withRequests_chooseD (s : State) (q : List QueuedRequest) (n : Nat) :
    chooseD n (s.withRequests q) = (chooseD n s).withRequests q := by
  induction n generalizing s with
  | zero => rfl
  | succ n ih =>
    have e : eligibleSlots (s.withRequests q) = eligibleSlots s := rfl
    unfold chooseD
    by_cases c : s.portD.tx = .free
    · simp only [withRequests_portD, c, if_true, e, withRequests_fwd, withRequests_sendOwnD]
      cases chooseClass (!s.fwd.down.isEmpty) (!(eligibleSlots s).isEmpty) s.portD.last with
      | none => rfl
      | some x =>
        cases x with
        | own => rfl
        | forward =>
          cases s.fwd.down with
          | nil => rfl
          | cons frame rest =>
            have j := withRequests_judgeFrame { s with fwd := { s.fwd with down := rest } } q frame
            dsimp only
            change (match judgeFrame frame (State.withRequests { s with fwd := { s.fwd with down := rest } } q) with
              | (some sent, t) => { t with portD := startFrame .forward sent t.portD }
              | (none, t) => chooseD n t) = _
            rw [j]
            cases judgeFrame frame { s with fwd := { s.fwd with down := rest } } with
            | mk a t => cases a with
              | none => exact ih t
              | some _ => rfl
    · simp [c]
theorem withRequests_releaseHeldBack (m : Management) (q : List QueuedRequest) (es : List EventRecord) :
    releaseHeldBack es { m with requests := q } = { releaseHeldBack es m with requests := q } := by
  cases m with
  | mk mode requests responses heldBack events dropped supTimer supLoss limits resetTaken =>
    cases heldBack with
    | none => rfl
    | some r =>
      unfold releaseHeldBack
      dsimp only
      by_cases c : es.any isResetRecord <;> simp only [c, if_true, if_false, Bool.false_eq_true]
@[simp] theorem withRequests_sendOwnU (s : State) (q : List QueuedRequest) :
    sendOwnU (s.withRequests q) = (sendOwnU s).withRequests q := by
  have e := withRequests_releaseHeldBack { s.mgmt with events := s.mgmt.events.drop Config.eventsPerFrame } q
    (s.mgmt.events.take Config.eventsPerFrame)
  unfold sendOwnU
  simp only [withRequests_mgmt]
  cases h : s.mgmt.responses with
  | nil => dsimp only at e ⊢; rw [h] at e; rw [e]; rfl
  | cons r rest => rfl
@[simp] theorem withRequests_chooseU (s : State) (q : List QueuedRequest) :
    chooseU (s.withRequests q) = (chooseU s).withRequests q := by
  unfold chooseU
  by_cases c : s.portU.tx = .free
  · simp only [withRequests_portU, c, if_true, withRequests_fwd, withRequests_mgmt, withRequests_sendOwnU]
    cases chooseClass (!s.fwd.up.isEmpty) (!s.mgmt.responses.isEmpty || !s.mgmt.events.isEmpty) s.portU.last with
    | none => rfl
    | some x =>
      cases x with
      | own => rfl
      | forward => cases s.fwd.up <;> rfl
  · simp [c]
@[simp] theorem withRequests_settle (s : State) (q : List QueuedRequest) :
    settle (s.withRequests q) = (settle s).withRequests q := by simp [settle]

/-! A station reset empties what stands behind. -/

/-- The state with this request queue, unless a station reset was taken, which empties the queue (R180). -/
def State.behind (s : State) (q : List QueuedRequest) : State :=
  s.withRequests (if s.mgmt.resetTaken then [] else q)

/-- An operation that passes over the request queue and takes no reset passes over what stands behind. -/
theorem behind_of {f : State → State} (w : ∀ s q, f (s.withRequests q) = (f s).withRequests q)
    (k : ∀ s, (f s).mgmt.resetTaken = s.mgmt.resetTaken) (s : State) (q : List QueuedRequest) :
    f (s.behind q) = (f s).behind q := by
  rw [State.behind, State.behind, w, k]

theorem Moves.resetTaken {s t : State} (m : Moves s t) : t.mgmt.resetTaken = s.mgmt.resetTaken := by
  have e := congrArg Management.resetTaken m.mgmt; exact e

theorem Moves.requests {s t : State} (m : Moves s t) : t.mgmt.requests = s.mgmt.requests := by
  have e := congrArg Management.requests m.mgmt; exact e

theorem takeSource_mark (k : SourceId) (s : State) :
    (takeSource k s).mgmt.resetTaken = s.mgmt.resetTaken ∧ (takeSource k s).mgmt.requests = s.mgmt.requests := by
  unfold takeSource
  dsimp only
  split
  · exact ⟨rfl, rfl⟩
  · exact ⟨(queueEvent_moves _ _ _ _).resetTaken, (queueEvent_moves _ _ _ _).requests⟩

/-- A reset was taken and nothing waits in the request queue. -/
def Emptied (s : State) : Prop := s.mgmt.resetTaken = true ∧ s.mgmt.requests = []

theorem Emptied.behind {s : State} (e : Emptied s) (q : List QueuedRequest) : s.behind q = s := by
  unfold State.behind State.withRequests
  rw [e.1, if_pos rfl, ← e.2]

theorem takingRunTransparent_emptied {s : State} (e : Emptied s) : Emptied (takingRunTransparent s) := by
  unfold takingRunTransparent
  generalize takingFuel = n
  induction n generalizing s with
  | zero => exact e
  | succ n ih =>
    unfold takingRunWith
    split
    · exact e
    · rename_i k _
      have a : Emptied (takeSource k s) := ⟨(takeSource_mark k s).1.trans e.1, (takeSource_mark k s).2.trans e.2⟩
      split
      · exact a
      · have m := applyAction_moves k (takeSource k s)
        exact ih ⟨m.resetTaken.trans a.1, m.requests.trans a.2⟩

theorem beginPresenceWith_emptied {k : SourceId} {d : Option SourceData} {s : State} (e : Emptied s) :
    Emptied (beginPresenceWith takingRunTransparent k d s) := by
  unfold beginPresenceWith
  dsimp only
  split
  · exact e
  · split
    · exact e
    · exact takingRunTransparent_emptied e

theorem losePresence_mgmt (k : SourceId) (s : State) : (losePresence k s).mgmt = s.mgmt :=
  have e := congrArg State.mgmt (losePresence_only k s)
  e

theorem resetItem_emptied (c : List (BitVec 32)) {s : State} (e : Emptied s) (i : ResetItem) :
    Emptied (resetItem c s i) := by
  have l : ∀ (k : SourceId) {t : State}, Emptied t → Emptied (losePresence k t) := fun k t h => by
    unfold Emptied; rw [losePresence_mgmt]; exact h
  cases i with
  | record =>
    have m := queueEvent_moves .stationReset none c s
    exact ⟨m.resetTaken.trans e.1, m.requests.trans e.2⟩
  | portLoss => exact beginPresenceWith_emptied e
  | padWear =>
    simp only [resetItem, evaluatePadWith]
    split
    · exact beginPresenceWith_emptied e
    · split
      · exact l _ e
      · exact e
  | diskWear =>
    simp only [resetItem, evaluateDiskWith]
    split
    · exact beginPresenceWith_emptied e
    · split
      · exact l _ e
      · exact e

/-- A station reset marks itself and leaves no request waiting (R180). -/
theorem stationReset_emptied (c : List (BitVec 32)) (s : State) : Emptied (stationReset c s) := by
  have h : ∀ (is : List ResetItem) {t : State}, Emptied t → Emptied (is.foldl (resetItem c) t) := by
    intro is
    induction is with
    | nil => intro t e; exact e
    | cons i is ih => intro t e; exact ih (resetItem_emptied c e i)
  exact h _ ⟨rfl, rfl⟩

@[simp] theorem behind_stationReset (s : State) (q : List QueuedRequest) (c : List (BitVec 32)) :
    stationReset c (s.behind q) = (stationReset c s).behind q := by
  rw [(stationReset_emptied c s).behind]; rfl

theorem behind_resetAction (k : SourceId) (s : State) (q : List QueuedRequest) :
    resetAction k (s.behind q) = (resetAction k s).behind q := behind_stationReset s q _

/-! The taking run. -/

theorem behind_takingRun (s : State) (q : List QueuedRequest) : takingRun (s.behind q) = (takingRun s).behind q := by
  unfold takingRun
  generalize takingFuel = n
  induction n generalizing s with
  | zero => rfl
  | succ n ih =>
    have t : ∀ k, takeSource k (s.behind q) = (takeSource k s).behind q := fun k =>
      behind_of (fun s q => withRequests_takeSource s q k) (fun s => (takeSource_mark k s).1) s q
    have a : ∀ k s, applyAction k (State.behind s q) = (applyAction k s).behind q := fun k s =>
      behind_of (fun s q => withRequests_applyAction s q k) (fun s => (applyAction_moves k s).resetTaken) s q
    have x : nextTaken (s.behind q) = nextTaken s := rfl
    have y : ∀ k, resetsStation (s.behind q) ((s.behind q).source k) = resetsStation s (s.source k) := fun _ => rfl
    unfold takingRunWith
    rw [x]
    cases nextTaken s with
    | none => rfl
    | some k =>
      dsimp only
      rw [y, t]
      by_cases c : resetsStation s (s.source k)
      · simp only [c, if_true]; exact behind_resetAction k _ q
      · simp only [c, if_false, Bool.false_eq_true]; rw [a]; exact ih _

theorem behind_beginPresence (k : SourceId) (d : Option SourceData) (s : State) (q : List QueuedRequest) :
    beginPresence k d (s.behind q) = (beginPresence k d s).behind q := by
  have e : (s.behind q).source k = s.source k := rfl
  unfold beginPresence beginPresenceWith
  simp only [e]
  by_cases a : (s.source k).real
  · simp [a]
  · by_cases b : (s.source k).sim
    · simp [a, b]; rfl
    · simp only [if_neg a, if_neg b]
      exact behind_takingRun (s.setSource k { s.source k with real := true, state := .pending, data := d }) q

theorem behind_losePresence (k : SourceId) (s : State) (q : List QueuedRequest) :
    losePresence k (s.behind q) = (losePresence k s).behind q :=
  behind_of (fun s q => withRequests_losePresence s q k) (fun s => congrArg Management.resetTaken (losePresence_mgmt k s)) s q

theorem behind_occurrence (k : SourceId) (d : SourceData) (s : State) (q : List QueuedRequest) :
    occurrence k d (s.behind q) = (occurrence k d s).behind q := by
  have e : (s.behind q).source k = s.source k := rfl
  unfold occurrence occurrenceWith
  rw [e]
  cases (s.source k).state with
  | idle => exact behind_takingRun (s.setSource k { s.source k with state := .pending, data := some d }) q
  | pending => rfl
  | served => rfl

theorem behind_evaluatePad (s : State) (q : List QueuedRequest) :
    evaluatePadWith takingRun (s.behind q) = (evaluatePadWith takingRun s).behind q := by
  have e : padIsWorn (s.behind q) = padIsWorn s := rfl
  have c : (s.behind q).cdr = s.cdr := rfl
  unfold evaluatePadWith
  simp only [e, c]
  by_cases a : padIsWorn s && !s.cdr.padWorn
  · simp only [a, if_true]
    exact behind_beginPresence .padWorn _ { s with cdr := { s.cdr with padWorn := padIsWorn s } } q
  · simp only [a, if_false, Bool.false_eq_true]
    by_cases b : s.cdr.padWorn && !padIsWorn s
    · simp only [b, if_true]
      exact behind_losePresence .padWorn { s with cdr := { s.cdr with padWorn := padIsWorn s } } q
    · simp [b]

theorem behind_evaluateDisk (s : State) (q : List QueuedRequest) :
    evaluateDiskWith takingRun (s.behind q) = (evaluateDiskWith takingRun s).behind q := by
  have e : diskIsWorn (s.behind q) = diskIsWorn s := rfl
  have c : (s.behind q).cdr = s.cdr := rfl
  unfold evaluateDiskWith
  simp only [e, c]
  by_cases a : diskIsWorn s && !s.cdr.diskWorn
  · simp only [a, if_true]
    exact behind_beginPresence .diskWorn _ { s with cdr := { s.cdr with diskWorn := diskIsWorn s } } q
  · simp only [a, if_false, Bool.false_eq_true]
    by_cases b : s.cdr.diskWorn && !diskIsWorn s
    · simp only [b, if_true]
      exact behind_losePresence .diskWorn { s with cdr := { s.cdr with diskWorn := diskIsWorn s } } q
    · simp [b]

theorem behind_evaluateWear (s : State) (q : List QueuedRequest) :
    evaluateWear (s.behind q) = (evaluateWear s).behind q := by
  have b : bothWearBegin (s.behind q) = bothWearBegin s := rfl
  have c : (s.behind q).choice = s.choice := rfl
  have n : (s.behind q).choicesTaken 1 = (s.choicesTaken 1).behind q := rfl
  unfold evaluateWear
  simp only [b, c, n]
  by_cases x : bothWearBegin s && decide (pickIndex s.choice 2 = 1)
  · simp only [x, if_true, behind_evaluateDisk, behind_evaluatePad]
  · simp only [x, if_false, Bool.false_eq_true]
    by_cases y : bothWearBegin s
    · simp only [y, if_true, behind_evaluateDisk, behind_evaluatePad]
    · simp only [y, if_false, Bool.false_eq_true, behind_evaluateDisk, behind_evaluatePad]

theorem behind_levelFell (old : Nat) (s : State) (q : List QueuedRequest) :
    levelFell old (s.behind q) = (levelFell old s).behind q := by
  have e : (s.behind q).cu = s.cu := rfl
  have r : repend (s.behind q) = (repend s).behind q := rfl
  unfold levelFell
  rw [e, r]
  by_cases c : s.cu.level < old
  · simp only [c, if_true]; exact behind_takingRun _ q
  · simp [c]

theorem behind_requestWearWrite (s : State) (q : List QueuedRequest) :
    requestWearWrite (s.behind q) = (requestWearWrite s).behind q :=
  behind_of withRequests_requestWearWrite (fun s => (requestWearWrite_moves s).resetTaken) s q

/-! The owning rules. -/

/-- A service passes over what stands behind the request, and answers the same. -/
def PassesOver (f : State → State × Answer) : Prop :=
  ∀ s q, f (s.behind q) = ((f s).1.behind q, (f s).2)

theorem PassesOver.refuse (o : OutcomeCode) : PassesOver fun s => refuse s o := fun _ _ => rfl

theorem PassesOver.ite {p : State → Prop} [∀ s, Decidable (p s)] (h : ∀ s q, p (s.behind q) = p s)
    {f g : State → State × Answer} (a : PassesOver f) (b : PassesOver g) :
    PassesOver fun s => if p s then f s else g s := fun s q => by
  by_cases c : p s
  · simp only [c, h, if_true]; exact a s q
  · simp only [c, h, if_false]; exact b s q

/-- A service that answers with a fixed answer after an operation. -/
theorem PassesOver.done {f : State → State} {a : State → Answer} (w : ∀ s q, f (s.behind q) = (f s).behind q)
    (h : ∀ s q, a (s.behind q) = a s) : PassesOver fun s => (f s, a s) := fun s q => by
  show (f (s.behind q), a (s.behind q)) = _
  rw [w, h]

theorem PassesOver.serve {α : Type} {shape : Walk α} {owner : Request → α → State → State × Answer}
    (h : ∀ r a, PassesOver (owner r a)) (r : Request) : PassesOver (serveRequest shape owner r) := fun s q => by
  have e : superviseRequest r.origin (s.behind q) = (superviseRequest r.origin s).behind q :=
    behind_of (fun s q => withRequests_superviseRequest s q r.origin) (fun s => by
      rw [superviseRequest_mgmt]; split <;> rfl) s q
  unfold serveRequest
  split
  · rw [e]
    split
    · rfl
    · exact h r _ _ q
  · rfl

/-! Each owning rule. -/

theorem passes_identify (r : Request) (a : Unit) : PassesOver (ownIdentify r a) := fun _ _ => rfl
theorem passes_heartbeat (r : Request) (a : Unit) : PassesOver (ownHeartbeat r a) := fun _ _ => rfl
theorem passes_readState (r : Request) (a : ReadStateArgs) : PassesOver (ownReadState r a) := fun s q => by
  unfold ownReadState
  repeat' split
  all_goals first | rfl | skip
  rename_i k _
  cases k <;> rfl

theorem behind_writeHoldValues (s : State) (q : List QueuedRequest) :
    writeHoldValues (s.behind q) = (writeHoldValues s).behind q :=
  behind_of withRequests_writeHoldValues (fun s => (writeHoldValues_moves s).resetTaken) s q

theorem behind_queueEvent (k : EventKind) (h : Option Head) (d : List (BitVec 32)) (s : State) (q : List QueuedRequest) :
    queueEvent k h d (s.behind q) = (queueEvent k h d s).behind q :=
  behind_of (fun s q => withRequests_queueEvent s q k h d) (fun s => (queueEvent_moves k h d s).resetTaken) s q

theorem behind_enterActive (s : State) (q : List QueuedRequest) : enterActive (s.behind q) = (enterActive s).behind q := by
  have y : startSupervision { s.behind q with mgmt := { (s.behind q).mgmt with mode := .active } } =
    (startSupervision { s with mgmt := { s.mgmt with mode := .active } }).behind q := rfl
  unfold enterActive
  simp only [y]
  by_cases c : s.arb.hold
  · exact (if_pos c).trans ((behind_writeHoldValues _ q).trans (congrArg (State.behind · q) (if_pos c).symm))
  · exact (if_neg c).trans (congrArg (State.behind · q) (if_neg c).symm)

theorem losePresence_resetTaken (k : SourceId) (s : State) :
    (losePresence k s).mgmt.resetTaken = s.mgmt.resetTaken := congrArg Management.resetTaken (losePresence_mgmt k s)

theorem clearMonitors_mgmt (s : State) : (clearMonitors s).mgmt = s.mgmt := by
  have e : ∀ (ks : List SourceId) (t : State), (ks.foldl (loseGroup s) t).mgmt = t.mgmt := by
    intro ks
    induction ks with
    | nil => intro t; rfl
    | cons k ks ih =>
      intro t
      refine (ih (loseGroup s t k)).trans ?_
      unfold loseGroup
      split
      · exact losePresence_mgmt k t
      · rfl
  exact e _ _

theorem behind_endSupervisionLoss (s : State) (q : List QueuedRequest) :
    endSupervisionLoss (s.behind q) = (endSupervisionLoss s).behind q :=
  behind_of withRequests_endSupervisionLoss (fun s => by
    unfold endSupervisionLoss
    split
    · exact losePresence_resetTaken _ _
    · rfl) s q

theorem behind_enterTransparent (s : State) (q : List QueuedRequest) :
    enterTransparent (s.behind q) = (enterTransparent s).behind q := by
  have c := behind_of withRequests_clearMonitors (fun s => congrArg Management.resetTaken (clearMonitors_mgmt s))
    { s with mgmt := { s.mgmt with mode := .transparent } } q
  unfold enterTransparent
  refine Eq.trans ?_ (behind_endSupervisionLoss _ q)
  exact congrArg (fun t : State => endSupervisionLoss { t with mgmt := { t.mgmt with supTimer := none } }) c

theorem passes_setMode (r : Request) (a : Nat) : PassesOver (ownSetMode r a) := by
  show PassesOver fun s => ownSetMode r a s
  unfold ownSetMode
  cases modeOfCode a with
  | none => exact .refuse _
  | some m =>
    refine .ite (fun _ _ => rfl) (fun _ _ => rfl) ?_
    cases m with
    | active =>
      refine .ite (fun _ _ => rfl) (.refuse _) (.done (fun s q => ?_) fun _ _ => rfl)
      rw [behind_enterActive]; exact behind_queueEvent _ _ _ _ q
    | transparent =>
      refine .ite (fun _ _ => rfl) (.refuse _) (.done (fun s q => ?_) fun _ _ => rfl)
      rw [behind_enterTransparent]; exact behind_queueEvent _ _ _ _ q

theorem passes_writeLimits (r : Request) (l : LimitBlock) : PassesOver (ownWriteLimits r l) := by
  show PassesOver fun s => ownWriteLimits r l s
  unfold ownWriteLimits
  refine .ite (fun _ _ => rfl) (.refuse _) (.ite (fun _ _ => rfl) (.refuse _) (.ite (fun _ _ => rfl) ?_ (.refuse _)))
  exact .done (fun s q => behind_evaluateWear { s with mgmt := { s.mgmt with limits := some l } } q) fun _ _ => rfl

theorem passes_readLimits (r : Request) (a : Unit) : PassesOver (ownReadLimits r a) := fun _ _ => rfl

theorem behind_returnInBand (f : Fn) (s : State) (q : List QueuedRequest) :
    returnInBand f (s.behind q) = (returnInBand f s).behind q :=
  behind_of (fun s q => withRequests_returnInBand s q f) (fun s => by
    unfold returnInBand
    dsimp only
    split
    · rfl
    · split
      · exact losePresence_resetTaken _ _
      · rfl) s q

theorem behind_remapFn (f : Fn) (ch : Option NodeChannel) (s : State) (q : List QueuedRequest) :
    remapFn f ch (s.behind q) = (remapFn f ch s).behind q := by
  unfold remapFn
  dsimp only
  rw [behind_returnInBand]
  rfl

theorem passes_mapFunction (r : Request) (a : MapArgs) : PassesOver (ownMapFunction r a) := by
  show PassesOver fun s => ownMapFunction r a s
  unfold ownMapFunction
  have hit : ∀ key, PassesOver fun s => (remapKey key a.channel s, doneAnswer) := fun key => by
    cases key with
    | sensor => exact .done (fun _ _ => rfl) fun _ _ => rfl
    | fn f => exact .done (behind_remapFn f a.channel) fun _ _ => rfl
  cases keyOfCode a.key with
  | none => exact .refuse _
  | some key =>
    have under : ∀ s q, keyUnderPart (State.behind s q) key = keyUnderPart s key := by cases key <;> intro _ _ <;> rfl
    have holds : ∀ s q, keyAssignment (State.behind s q) key = keyAssignment s key := by
      cases key <;> intro _ _ <;> rfl
    exact .ite (fun _ _ => rfl) (.refuse _) (.ite (fun s q => by rw [under]) (.refuse _)
      (.ite (fun _ _ => rfl) (.refuse _) (.ite (fun s q => by rw [holds]) (fun _ _ => rfl) (hit key))))

theorem passes_loadZoneMap (r : Request) (a : ZoneMapArgs) : PassesOver (ownLoadZoneMap r a) := by
  show PassesOver fun s => ownLoadZoneMap r a s
  unfold ownLoadZoneMap
  split
  · exact .ite (fun _ _ => rfl) (.refuse _) (.ite (fun _ _ => rfl) (fun _ _ => rfl) (.refuse _))
  · exact .refuse _

theorem passes_loadStep (r : Request) (a : StepArgs) : PassesOver (ownLoadStep r a) := by
  show PassesOver fun s => ownLoadStep r a s
  unfold ownLoadStep
  refine .ite (fun _ _ => rfl) (.refuse _) fun s q => ?_
  have e : (s.behind q).mgmt.limits = s.mgmt.limits := rfl
  rw [e]
  cases s.mgmt.limits with
  | none => rfl
  | some l =>
    have u : stepInUse (s.behind q) a.index = stepInUse s a.index := rfl
    dsimp only
    rw [u]
    by_cases c : stepInUse s a.index
    · simp only [c, if_true]; rfl
    · simp only [c, if_false, Bool.false_eq_true]
      cases endModeOfCode a.endMode with
      | none => rfl
      | some m =>
        dsimp only
        by_cases d : stepFieldsOk a m && boundsOk a.bounds.isSome (effectiveBounds l a.bounds)
        · simp only [d, if_true]; rfl
        · simp only [d, if_false, Bool.false_eq_true]; rfl

theorem passes_loadBlend (r : Request) (a : BlendArgs) : PassesOver (ownLoadBlend r a) :=
  .ite (fun _ _ => rfl) (.refuse _) (.ite (fun _ _ => rfl) (.refuse _) fun _ _ => rfl)
theorem passes_loadConditioning (r : Request) (a : ConditioningArgs) : PassesOver (ownLoadConditioning r a) :=
  .ite (fun _ _ => rfl) (.refuse _) (.ite (fun _ _ => rfl) (.refuse _) fun _ _ => rfl)
theorem passes_loadPadService (r : Request) (a : PadServiceArgs) : PassesOver (ownLoadPadService r a) :=
  .ite (fun _ _ => rfl) (.refuse _) (.ite (fun _ _ => rfl) (.refuse _) (.ite (fun _ _ => rfl) (fun _ _ => rfl) (.refuse _)))

theorem passes_loadProgram (r : Request) (a : ProgramArgs) : PassesOver (ownLoadProgram r a) := by
  show PassesOver fun s => ownLoadProgram r a s
  unfold ownLoadProgram
  cases headOfCode a.head with
  | none => exact .refuse _
  | some h =>
    exact .ite (fun _ _ => rfl) (.refuse _) (.ite (fun _ _ => rfl) (.refuse _)
      (.ite (fun _ _ => rfl) (fun _ _ => rfl) (.refuse _)))

theorem passes_startHead (r : Request) (a : Nat) : PassesOver (ownStartHead r a) := by
  show PassesOver fun s => ownStartHead r a s
  unfold ownStartHead
  cases headOfCode a with
  | none => exact .refuse _
  | some h =>
    exact .ite (fun _ _ => rfl) (.refuse _) (.ite (fun _ _ => rfl) (.refuse _) (.ite (fun _ _ => rfl)
      (.done (behind_of (fun s q => withRequests_startHead s q h) fun s =>
        ((setSeq_moves h _ s).trans (stepEntry_moves h _)).resetTaken) fun _ _ => rfl) (.refuse _)))

/-- A request that names a head and moves it. -/
theorem passes_headRequest {accepts : HeadState → Bool} {f : Head → State → State} (a : Nat)
    (w : ∀ h s q, f h (s.withRequests q) = (f h s).withRequests q) (m : ∀ h s, Moves s (f h s)) :
    PassesOver (headRequest accepts f a) := by
  show PassesOver fun s => headRequest accepts f a s
  unfold headRequest
  cases headOfCode a with
  | none => exact .refuse _
  | some h =>
    exact .ite (fun _ _ => rfl) (.done (behind_of (w h) fun s => (m h s).resetTaken) fun _ _ => rfl) (.refuse _)

theorem passes_pauseHead (r : Request) (a : Nat) : PassesOver (ownPauseHead r a) :=
  passes_headRequest a (fun _ _ _ => rfl) pauseHead_moves
theorem passes_resumeHead (r : Request) (a : Nat) : PassesOver (ownResumeHead r a) :=
  passes_headRequest a (fun _ _ _ => rfl) resumeHead_moves
theorem passes_skipStep (r : Request) (a : Nat) : PassesOver (ownSkipStep r a) :=
  passes_headRequest a (fun h s q => withRequests_skipStep s q h) skipStep_moves
theorem passes_abortHead (r : Request) (a : Nat) : PassesOver (ownAbortHead r a) :=
  passes_headRequest a (fun h s q => withRequests_abortHead s q h) abortHead_moves

theorem passes_readResult (r : Request) (a : ReadResultArgs) : PassesOver (ownReadResult r a) := fun s q => by
  unfold ownReadResult
  repeat' split
  all_goals rfl
theorem passes_readProfile (r : Request) (a : ReadProfileArgs) : PassesOver (ownReadProfile r a) := fun s q => by
  unfold ownReadProfile
  repeat' split
  all_goals rfl

theorem passes_applySettings (k : SourceId) (e : Bool) (v : Nat) (a : Action) : PassesOver (applySettings k e v a) :=
  fun s q => congrArg (·, _) (behind_takingRun (s.setSource k { s.source k with enabled := e, severity := v, action := a }) q)

theorem passes_setSource (r : Request) (a : SetSourceArgs) : PassesOver (ownSetSource r a) := by
  show PassesOver fun s => ownSetSource r a s
  unfold ownSetSource
  split
  · refine .ite (fun _ _ => rfl) ?_ ?_
    · unfold setSpecial
      split
      · exact .ite (fun _ _ => rfl) (.refuse _) fun s q => passes_applySettings _ _ (s.source _).severity _ s q
      · exact .ite (fun _ _ => rfl) (.refuse _) fun s q => passes_applySettings _ _ (s.source _).severity _ s q
      all_goals exact .refuse _
    · unfold setOrdinary
      refine .ite (fun _ _ => rfl) ?_ (.refuse _)
      split <;> first | exact passes_applySettings _ _ _ _ | exact .refuse _
  · exact .refuse _

theorem passes_clearSource (r : Request) (a : Nat) : PassesOver (ownClearSource r a) := by
  show PassesOver fun s => ownClearSource r a s
  unfold ownClearSource
  cases sourceOfNumber a with
  | none => exact .refuse _
  | some k =>
    refine .done (behind_of (fun s q => ?_) fun s => ?_) fun _ _ => rfl
    · unfold clearSource
      by_cases c : isLevel k <;> by_cases d : (s.source k).sim <;> simp [c, d]
    · unfold clearSource
      split
      · split
        · exact congrArg Management.resetTaken (congrArg State.mgmt (endSimulation_only k s) :)
        · rfl
      · rfl

theorem behind_simulateSource (k : SourceId) (h : Option Head) (v : Nat) (s : State) (q : List QueuedRequest) :
    simulateSource k h v (s.behind q) = (simulateSource k h v s).behind q := by
  have e : (s.behind q).source k = s.source k := rfl
  unfold simulateSource
  by_cases c : isLevel k
  · simp only [if_pos c, beginSimulationWith, e]
    by_cases a : (s.source k).sim
    · simp only [if_pos a]
    · by_cases b : (s.source k).real
      · simp only [if_neg a, if_pos b]; rfl
      · simp only [if_neg a, if_neg b]
        exact behind_takingRun
          (s.setSource k { s.source k with sim := true, state := .pending, data := some (.simulated none v) }) q
  · simp only [if_neg c]; exact behind_occurrence k _ s q

theorem passes_simulateSource (r : Request) (a : SimulateArgs) : PassesOver (ownSimulateSource r a) := by
  show PassesOver fun s => ownSimulateSource r a s
  unfold ownSimulateSource
  refine .ite (fun _ _ => rfl) (.refuse _) ?_
  split
  · exact .refuse _
  · split
    · exact .refuse _
    · exact .done (behind_simulateSource _ _ _) fun _ _ => rfl
  · exact .done (behind_simulateSource _ _ _) fun _ _ => rfl

theorem passes_readConditions (r : Request) (a : ReadConditionsArgs) : PassesOver (ownReadConditions r a) := fun s q => by
  unfold ownReadConditions
  repeat' split
  all_goals rfl

theorem passes_setLevel (r : Request) (v : Nat) : PassesOver (ownSetLevel r v) :=
  .ite (fun _ _ => rfl) (.refuse _) (.done (fun s q =>
    behind_levelFell s.cu.level { s with cu := { s.cu with level := levelSet r v, stack := [] } } q) fun _ _ => rfl)

theorem passes_resumeLevel (r : Request) (a : Unit) : PassesOver (ownResumeLevel r a) := fun s q => by
  have e : (s.behind q).cu = s.cu := rfl
  unfold ownResumeLevel
  rw [e]
  cases s.cu.stack.getLast? with
  | none => rfl
  | some top =>
    exact congrArg (·, doneWith (u8 top))
      (behind_levelFell s.cu.level { s with cu := { s.cu with level := top, stack := s.cu.stack.dropLast } } q)

theorem passes_releaseHold (r : Request) (a : Unit) : PassesOver (ownReleaseHold r a) :=
  .ite (fun _ _ => rfl) (.refuse _)
    (.done (behind_of withRequests_endHold fun s => (endHold_moves s).resetTaken) fun _ _ => rfl)

theorem abortAll_resetTaken (s : State) : (abortAll s).mgmt.resetTaken = s.mgmt.resetTaken := by
  have b := (beginHold_moves s).resetTaken
  show (abortHeads (beginHold s)).mgmt.resetTaken = _
  unfold abortHeads
  split
  · split
    · exact (((abortHead_moves .b _).trans (abortHead_moves .a _)).resetTaken.trans rfl).trans b
    · exact (((abortHead_moves .a _).trans (abortHead_moves .b _)).resetTaken.trans rfl).trans b
  · exact ((abortIfWorking_moves .a _).trans (abortIfWorking_moves .b _)).resetTaken.trans b

theorem passes_abortAll (r : Request) (a : Unit) : PassesOver (ownAbortAll r a) :=
  .ite (fun _ _ => rfl) (.refuse _) (.done (behind_of withRequests_abortAll abortAll_resetTaken) fun _ _ => rfl)

theorem passes_storeRead (r : Request) (a : StoreReadArgs) : PassesOver (ownStoreRead r a) := fun s q => by
  unfold ownStoreRead
  repeat' split
  all_goals rfl

theorem passes_storeStage (r : Request) (a : StagedArgs) : PassesOver (ownStoreStage r a) := by
  show PassesOver fun s => ownStoreStage r a s
  unfold ownStoreStage
  cases a with
  | sensorCal ps =>
    exact .ite (fun _ _ => rfl) (.refuse _) (.ite (fun _ _ => rfl) (fun _ _ => rfl) (.refuse _))
  | channelCal os =>
    exact .ite (fun _ _ => rfl) (.refuse _) (.ite (fun _ _ => rfl) (fun _ _ => rfl) (.refuse _))
  | wear w => exact .refuse _
  | protect x y =>
    refine .ite (fun _ _ => rfl) (.refuse _) ?_
    split
    · exact .refuse _
    · exact fun _ _ => rfl
  | unknown => exact .refuse _

theorem passes_storeCommit (r : Request) (a : Nat) : PassesOver (ownStoreCommit r a) := by
  show PassesOver fun s => ownStoreCommit r a s
  unfold ownStoreCommit
  split
  · exact .refuse _
  · refine .ite (fun _ _ => rfl) (.refuse _) fun s q => ?_
    have e : (s.behind q).store = s.store := rfl
    rw [e]
    cases s.store.staged with
    | none => rfl
    | some w =>
      dsimp only
      repeat' split
      all_goals rfl

theorem passes_storeReload (r : Request) (a : Unit) : PassesOver (ownStoreReload r a) :=
  .ite (fun _ _ => rfl) (.refuse _) (.ite (fun _ _ => rfl) (.refuse _) fun _ _ => rfl)

theorem passes_replaceConsumable (r : Request) (a : Nat) : PassesOver (ownReplaceConsumable r a) := by
  refine .ite (fun _ _ => rfl) (.refuse _) (.ite (fun _ _ => rfl) (.refuse _) (.done (fun s q => ?_) fun _ _ => rfl))
  by_cases c : a = itemPad
  · simp only [if_pos c]
    exact (congrArg requestWearWrite (behind_evaluateWear (renewPad s) q)).trans (behind_requestWearWrite _ q)
  · simp only [if_neg c]
    exact (congrArg requestWearWrite (behind_evaluateWear (renewDisk s) q)).trans (behind_requestWearWrite _ q)

theorem passes_stationReset (r : Request) (a : Unit) : PassesOver (ownStationReset r a) :=
  .ite (fun _ _ => rfl) (.refuse _) (.done (fun s q => behind_stationReset s q _) fun _ _ => rfl)

theorem behind_superviseRequest (o : Nat) (s : State) (q : List QueuedRequest) :
    superviseRequest o (s.behind q) = (superviseRequest o s).behind q :=
  behind_of (fun s q => withRequests_superviseRequest s q o) (fun s => by rw [superviseRequest_mgmt]; split <;> rfl) s q

theorem passes_unknown (r : Request) : PassesOver (serveUnknown r) :=
  .ite (fun _ _ => rfl) (.done (a := fun _ => ⟨.unknown, []⟩) (behind_superviseRequest _) fun _ _ => rfl) (.refuse _)
theorem passes_short (r : Request) : PassesOver (serveShort r) :=
  .ite (fun _ _ => rfl) (.done (a := fun _ => ⟨.invalid, []⟩) (behind_superviseRequest _) fun _ _ => rfl) (.refuse _)

/-- Every service of the catalogue passes over the requests behind the one it serves (R160, R163). -/
theorem passes_code {n : Nat} {serve : Request → State → State × Answer} (h : serveCode n = some serve) (r : Request) :
    PassesOver (serve r) := by
  unfold serveCode at h
  split at h
  all_goals cases h
  · exact .serve passes_identify r
  · exact .serve passes_heartbeat r
  · exact .serve passes_readState r
  · exact .serve passes_setMode r
  · exact .serve passes_writeLimits r
  · exact .serve passes_readLimits r
  · exact .serve passes_mapFunction r
  · exact .serve passes_loadZoneMap r
  · exact .serve passes_loadStep r
  · exact .serve passes_loadBlend r
  · exact .serve passes_loadConditioning r
  · exact .serve passes_loadPadService r
  · exact .serve passes_loadProgram r
  · exact .serve passes_startHead r
  · exact .serve passes_pauseHead r
  · exact .serve passes_resumeHead r
  · exact .serve passes_skipStep r
  · exact .serve passes_abortHead r
  · exact .serve passes_readResult r
  · exact .serve passes_readProfile r
  · exact .serve passes_setSource r
  · exact .serve passes_clearSource r
  · exact .serve passes_simulateSource r
  · exact .serve passes_readConditions r
  · exact .serve passes_setLevel r
  · exact .serve passes_resumeLevel r
  · exact .serve passes_releaseHold r
  · exact .serve passes_abortAll r
  · exact .serve passes_storeRead r
  · exact .serve passes_storeStage r
  · exact .serve passes_storeCommit r
  · exact .serve passes_storeReload r
  · exact .serve passes_replaceConsumable r
  · exact .serve passes_stationReset r

theorem passes_payload (p : List Byte) (r : Request) : PassesOver (servePayload p r) := by
  unfold servePayload
  split
  · rename_i c _ _
    cases e : serveCode c.toNat with
    | none => exact passes_unknown r
    | some serve => exact passes_code e r
  · exact passes_short r

/-- What a service leaves in the request queue it finds empty: nothing. -/
theorem PassesOver.requests {f : State → State × Answer} (h : PassesOver f) {s : State} (e : s.mgmt.requests = []) :
    (f s).1.mgmt.requests = [] := by
  have b : s.behind [] = s := by unfold State.behind State.withRequests; rw [ite_self, ← e]
  have g := congrArg Prod.fst (h s [])
  rw [b] at g
  rw [g]
  show (if (f s).1.mgmt.resetTaken then ([] : List QueuedRequest) else []) = []
  exact ite_self _

/-- The request at the head of the queue is served as it would be alone; those behind it stay in order, unless a station
reset was taken (R160, R180, log 26). -/
theorem takeQueued_head {q : QueuedRequest} {rest : List QueuedRequest} {s : State} (h : s.mgmt.requests = q :: rest) :
    ∃ (answer : Answer) (effect : State), effect.mgmt.requests = [] ∧
      completeRequest (servePayload q.payload) (payloadRequest q.source q.payload) (s.withRequests []) =
        settle (respond (payloadRequest q.source q.payload).origin (payloadRequest q.source q.payload).tag answer effect) ∧
      takeQueued s = settle (respond (payloadRequest q.source q.payload).origin
        (payloadRequest q.source q.payload).tag answer (effect.behind rest)) := by
  have p := passes_payload q.payload (payloadRequest q.source q.payload)
  refine ⟨_, _, p.requests (s := beginRequest (s.withRequests [])) rfl, rfl, ?_⟩
  have e := p (beginRequest (s.withRequests [])) rest
  have b : beginRequest { s with mgmt := { s.mgmt with requests := rest } } =
    (beginRequest (s.withRequests [])).behind rest := rfl
  unfold takeQueued completeRequest
  rw [h]
  dsimp only
  rw [b, e]

/-! The command that a payload stands for. -/

/-- A request command of the catalogue that is taken at once is served as its payload is (R160, R163, R197). -/
theorem exec_of_code {i : Instr} {n : Nat} {r : Request} (hc : codeOf i = some n) (hr : requestOf i = some r) {s : State}
    (hi : isRunning s = true) (ht : takesAtOnce s = true) :
    exec i s = .next (completeRequest (servePayload (BitVec.ofNat 8 n :: r.tag :: r.args)) r s) := by
  cases i <;> simp only [codeOf, Option.some.injEq, reduceCtorEq] at hc <;>
    simp only [requestOf, Option.some.injEq] at hr <;> subst hc hr <;>
    (refine congrArg Host.Outcome.next ?_; unfold request; rw [if_pos hi, if_pos ht]; rfl)

/-- A payload that names no request is served as UNKNOWN_REQUEST is (R161, R163, R197). -/
theorem servePayload_of_nameless (p : List Byte)
    (h : ∀ c tag args, p = c :: tag :: args → c.toNat = 0 ∨ 34 < c.toNat) : servePayload p = serveNameless p := by
  unfold servePayload serveNameless
  split
  · rename_i c tag args
    have n := h c tag args rfl
    have e : serveCode c.toNat = none := by
      unfold serveCode
      split <;> first | omega | rfl
    rw [e]
    simp
  · rename_i q
    match p, q with
    | [], _ => rfl
    | [_], _ => rfl
    | a :: b :: l, q => exact absurd rfl (q a b l)

end Sys2Proof.Machine
end

