-- ==== Sys2Proof/Tests/Slice0.lean ====
section
/-! SUPPORT. The model's own tests: ill-formed commands refused by the checks of WellFormed, the spec's worked numbers, one
step of each kind of command on small states, and for every statement with hypotheses a state that meets them. Expected
values are the spec's worked examples or computed by hand from its rules. -/

namespace Sys2Proof.Tests

open Sys2Proof.Machine

/-! ## Ill-formed commands -/

theorem test_wf_address : (Instr.identify ⟨64, 0, []⟩).wf = false := by decide
theorem test_wf_args : (Instr.identify ⟨0, 0, List.replicate 119 0⟩).wf = false := by decide +kernel
theorem test_wf_good : (Instr.identify ⟨63, 0, List.replicate 118 0⟩).wf = true := by decide
theorem test_wf_unknown_named : (Instr.unknownRequest 0 [34, 0]).wf = false := by decide
theorem test_wf_unknown_address : (Instr.unknownRequest 64 [35, 0]).wf = false := by decide
theorem test_wf_unknown_long : (Instr.unknownRequest 0 (List.replicate 121 0)).wf = false := by decide +kernel
theorem test_wf_unknown_good : (Instr.unknownRequest 0 [35, 0]).wf = true := by decide
theorem test_wf_deviation : (Instr.deviationDwellExpiry .arm).wf = false := by decide

/-! ## The spec's worked numbers -/

/-- 07 section 7.1: the code of the nine bytes 49 to 57 is 10,673. -/
theorem test_check_code : checkCode [49, 50, 51, 52, 53, 54, 55, 56, 57] = 10673 := by decide +kernel

/-- The SENSOR_CAL working copy of 02 section 2.3. -/
def film : List CalPoint :=
  [⟨2000, 90000⟩, ⟨4000, 80000⟩, ⟨8000, 70000⟩, ⟨12000, 60000⟩, ⟨20000, 40000⟩, ⟨24000, 32000⟩, ⟨28000, 26000⟩,
   ⟨32000, 20000⟩, ⟨36000, 15000⟩, ⟨40000, 11000⟩, ⟨44000, 8000⟩, ⟨48000, 5500⟩, ⟨52000, 3500⟩, ⟨56000, 2000⟩,
   ⟨60000, 800⟩, ⟨64000, 0⟩]

/-- 02 section 2.3, the worked conversion. -/
theorem test_conversion :
    [1500, 2000, 15500, 15501, 20000, 45000, 62999, 64000, 65535].map (convertRaw film) =
      [90000, 90000, 51250, 51248, 40000, 7375, 201, 0, 0] := by decide +kernel

/-- 02 section 2.7: zone Z2 of the worked sweep, and Z5 below the minimum samples. -/
theorem test_means : zoneMean 3 ⟨151748, 3⟩ = some ⟨50582, 3⟩ ∧ zoneMean 3 ⟨40000, 1⟩ = none := by decide

/-- 03 section 3.6, close of sweep 8: rates, finish times, and the corrections of Z1, Z2 and Z3. -/
theorem test_rates :
    removalRate 51500 48200 6000 = 550 ∧ finishTime 43200 550 = 78545 ∧ finishTime 43100 450 = 95777 := by decide

def half : ControlSection := { gain := 128, maxStep := 15, minRate := 10, depth := 4 }

theorem test_corrections :
    ((correction half ⟨50, 450⟩ 200 88000 87440).after, (correction half ⟨50, 450⟩ 200 78545 87440).after,
      (correction half ⟨50, 450⟩ 210 95777 87440).after) = (200, 190, 220) := by decide

/-- 03 section 3.6, the correction stage at the limits: rows 1 and 3. -/
theorem test_correction_limits :
    correction { half with gain := 256 } ⟨50, 450⟩ 440 480 440 = ⟨480, 455, 450, true, true⟩ ∧
    correction { half with gain := 200 } ⟨50, 450⟩ 60 0 87440 = ⟨0, 45, 50, true, true⟩ := by decide

/-- A limit block that keeps R172. -/
def limits : LimitBlock :=
  { areas := PerArea.fill { min := 50, max := 450, hold := 60 }, pressureBand := 5, pressureDwell := 10
    dose1Max := 500, dose2Max := 400, dose3Max := 300, totalMax := 900, rinseMax := 800, holdRinse := 100
    flowBand := 5, flowDwell := 100, forceMax := 300, diskMax := 100, armMin := 100, armMax := 3000, park := 200
    armTolerance := 10, arrivalTimeout := 100, supervisionTimeout := 1000, sampleGapTimeout := 500, padLife := 3
    diskLife := 4 }

/-- 04 section 4.6, the worked splits: rows 2, 3 and 5. -/
theorem test_splits :
    flowSplit limits ⟨333, 500, 333, 167, 0⟩ 1 = ⟨168, 110, 55, 0⟩ ∧
    flowSplit { limits with totalMax := 1000, dose1Max := 400 } ⟨600, 500, 300, 200, 900⟩ 2 = ⟨400, 300, 200, 800⟩ ∧
    flowSplit limits ⟨111, 334, 333, 333, 0⟩ 1 = ⟨39, 36, 36, 0⟩ := by decide +kernel

/-! ## Small states -/

def plainStep : StepRecord :=
  { endMode := .time, limit := 5000, base := PerArea.fill 20, bounds := PerArea.fill ⟨50, 450⟩, minSamples := 3
    control := none, endpoint := none, pad := none }

def watchedStep : StepRecord :=
  { plainStep with
    endMode := .endpoint, control := some half
    endpoint := some { zones := PerZone.fill ⟨some 5000, none⟩, margin := 300, confirm := 1 } }

/-- A running station in ACTIVE mode: steps 0 (plain), 1 (pad entry 0) and 2 (watched); entry 0 with blend 0 and program
0, entry 1 with neither; head A READY with steps 0 and 1, head B READY with step 1. -/
def active : State :=
  { State.reset with
    base := { phase := .running, time := 1000, ownAddr := 5, rate := .mbit10 }
    mgmt := { State.reset.mgmt with mode := .active, limits := some limits, supTimer := some 2000 }
    steps := [some plainStep, some { plainStep with pad := some 0 }, some watchedStep]
    seqs := ⟨{ resetSequencer with state := .ready, program := some [0, 1] },
             { resetSequencer with state := .ready, program := some [1] }⟩
    arb := { State.reset.arb with table := [some ⟨some 0, some 0⟩, some ⟨none, none⟩] }
    dose := { blends := [some ⟨350, 500, 333, 167, 40⟩], current := none }
    cdr := { State.reset.cdr with programs := [some ⟨120, 60, [⟨50, 1000⟩, ⟨900, 2000⟩]⟩] } }

/-- The same station in TRANSPARENT mode with the limit block unwritten. -/
def transparent : State :=
  { active with mgmt := { active.mgmt with mode := .transparent, limits := none, supTimer := none } }

/-- Head A in a state, at a position of its program, in a step that began polishing at 400. -/
def headA (x : HeadState) (position : Nat) (s : State) : State :=
  s.setSeq .a { s.seq .a with
    state := x, position := some position
    timer := if x = .polishing then .running 900 else if x = .paused then .frozen 70 else .stopped
    gap := if x = .polishing then some 950 else none
    current := some { step := 0, time := 100, sweeps := 0
                      interval := if x = .polishing then some 400 else none, polished := true } }

def tool (args : List Byte) : Request := { origin := 0, tag := 9, args }
def interlock (args : List Byte) : Request := { origin := 62, tag := 9, args }

/-- What a command leaves. -/
def after (i : Instr) (s : State) : State :=
  match exec i s with
  | .next t => t
  | _ => s

/-! ## One step of each kind -/

theorem test_identify_sent :
    (after (.identify (tool [])) active).portU.tx =
      .busy (ownFrame 0 5 5 [9, 0, 16, 21, 0, 80, 1, 8, 0, 1, 5, 10, 0, 0, 3, 232]) := by decide +kernel
theorem test_origin : (after (.identify ⟨7, 9, []⟩) active).portU.tx = .busy (ownFrame 7 5 5 [9, 5]) := by decide +kernel
theorem test_heartbeat_restarts : (after (.heartbeat (tool [])) active).mgmt.supTimer = some 2000 := by decide
theorem test_set_mode : (after (.setMode (tool [0])) active).mgmt.mode = .transparent := by decide
theorem test_set_mode_not_ready :
    (after (.setMode (tool [1])) transparent).portU.tx = .busy (ownFrame 0 5 5 [9, 7]) := by decide +kernel
theorem test_write_limits :
    (after (.writeLimits (interlock (limitBytes limits))) transparent).mgmt.limits = some limits := by decide
theorem test_map_function :
    ((after (.mapFunction (tool [19, 1, 3, 7])) active).fn .arm).assign = some ⟨3, 7⟩ := by decide
theorem test_start_head : ((after (.startHead (tool [1])) active).seq .a).state = .polishing := by decide
theorem test_start_clamps :
    ((after (.startHead (tool [1])) active).seq .a).commanded.get .ring = some 50 := by decide
theorem test_start_grants :
    (after (.startHead (tool [2])) active).arb.service = some ⟨0, ⟨false, true⟩, 1000⟩ := by decide +kernel
theorem test_start_doses :
    (after (.startHead (tool [2])) active).dose.current = some ⟨176, 116, 58, 40⟩ := by decide +kernel
theorem test_start_travels :
    ((after (.startHead (tool [2])) active).cdr.run.map CondRun.target) = some 100 := by decide +kernel
theorem test_pause : ((after (.pauseHead (tool [1])) (headA .polishing 1 active)).seq .a).timer = .frozen 0 := by decide
theorem test_resume :
    ((after (.resumeHead (tool [1])) (headA .paused 1 active)).seq .a).timer = .running 1070 := by decide
theorem test_skip_enters_next : ((after (.skipStep (tool [1])) (headA .polishing 1 active)).seq .a).position = some 2 := by
  decide
theorem test_done_counts_wafer :
    (after (.skipStep (tool [1])) (headA .polishing 2 active)).store.live.wafers = 1 := by decide
theorem test_abort : ((after (.abortHead (tool [1])) (headA .paused 1 active)).seq .a).state = .aborted := by decide
theorem test_step_timer :
    (((after (.stepTimerExpiry .a) (headA .polishing 1 active)).seq .a).results.map StepResult.duration) = [700] := by
  decide
theorem test_sample_gap_taken : (after (.sampleGapExpiry .a) (headA .polishing 1 active)).cu.level = 5 := by decide
theorem test_set_source :
    ((after (.setSource (tool [10, 0, 12, 3])) active).source .armStall) =
      { resetSource .armStall with enabled := false, severity := 12, action := .hold } := by decide
theorem test_set_level : (after (.setLevel (tool [15])) active).cu.level = 10 := by decide
theorem test_abort_all : (after (.abortAll (interlock [])) active).cu.level = 15 := by decide
theorem test_supervision :
    (after .supervisionExpiry { active with base := { active.base with time := 2000 } }).arb.hold = true := by decide
theorem test_stage_protect :
    (after (.storeStage (interlock [4, 1, 0])) active).store.staged =
      some { contents := .protect ⟨true, false⟩, origin := .interlock } := by decide
theorem test_replace : (after (.replaceConsumable (tool [1])) active).store.live.padCount = 1 := by decide
theorem test_station_reset :
    (after (.stationReset (tool [])) { active with portD := { active.portD with link := .online } }).mgmt.mode =
      .transparent := by decide
theorem test_line_loss : (after (.lineLoss .u) active).portU.link = .offline 0 := by decide
theorem test_bad_frame : (after (.portUReceive [1, 2, 3]) active).portU.streak = 1 := by decide
theorem test_forward : (after (.portDReceive (ownFrame 0 3 9 [1])) active).portU.tx = .busy (ownFrame 0 3 9 [1]) := by
  decide +kernel
theorem test_reset_release : (after (.resetRelease 62 true) State.reset).base = ⟨.loading, 0, 61, .mbit25⟩ := by decide
theorem test_load_done :
    (after .storeLoadDone (after (.resetRelease 5 false) State.reset)).cu.stack = [0, 4] := by decide
theorem test_hardware_reset : after .hardwareReset active = State.reset := by decide
theorem test_withFetchWord : active.withFetchWord 8 0 = active := by decide

/-! ## States that meet the hypotheses of the statements -/

theorem admits_tool (args : List Byte) : Admitted (tool args) active := ⟨by decide, by decide, rfl⟩
theorem admits_interlock (args : List Byte) : Admitted (interlock args) active := ⟨by decide, by decide, rfl⟩
theorem admits_tool_transparent (args : List Byte) : Admitted (tool args) transparent := ⟨by decide, by decide, rfl⟩
theorem admits_interlock_transparent (args : List Byte) : Admitted (interlock args) transparent :=
  ⟨by decide, by decide, rfl⟩

/-- A station that can take no request yet: one is held back, and `n` wait. -/
def blocked (n : Nat) : State :=
  { active with mgmt := { active.mgmt with
      heldBack := some ⟨0, 1, .done, []⟩, requests := List.replicate n ⟨0, [1, 1]⟩ } }

theorem witness_StepTakesTheFrontCommand :
    { active with pending := [.commitCompletion, .supervisionExpiry] }.pending =
      .commitCompletion :: [.supervisionExpiry] := rfl

theorem witness_CommandsLeaveTheQueue : exec .commitCompletion active = .next (after .commitCompletion active) := rfl

theorem witness_IdlePartActsByItself :
    active.pending = [] ∧ ownArrivals active = [] ∧
      ownArrivals { active with base := { active.base with time := 2000 } } ≠ [] := by decide

theorem witness_RequestsAreAnsweredOnce :
    (requestOf (.identify (tool [])) = some (tool []) ∧ isRunning active = true ∧ takesAtOnce active = true) ∧
    (requestOf (.stationReset (tool [])) = some (tool []) ∧
      (stationReset (requestCause 0) (served (tool [])
        { active with portD := { active.portD with link := .online } })).mgmt.resetTaken = true) := by decide

theorem witness_TurnedAwayBeforeTheOwningRule :
    (requestOf (.identify ⟨1, 0, []⟩) = some ⟨1, 0, []⟩ ∧ isRunning active = true ∧ takesAtOnce active = true) ∧
    Admitted (payloadRequest 0 [35]) active ∧ Admitted (payloadRequest 62 [35, 0]) active := by
  exact ⟨by decide, ⟨by decide, by decide, rfl⟩, ⟨by decide, by decide, rfl⟩⟩

theorem witness_RequestsWaitInTheirQueue :
    codeOf (.identify (tool [])) = some 1 ∧ requestOf (.identify (tool [])) = some (tool []) ∧
      (isRunning (blocked 3) = true ∧ takesAtOnce (blocked 3) = false ∧ (blocked 3).mgmt.requests.length < 4) ∧
      (isRunning (blocked 4) = true ∧ takesAtOnce (blocked 4) = false ∧ ¬(blocked 4).mgmt.requests.length < 4) := by
  decide

/-- These payloads of the tool wait, the oldest first. -/
def queued (payloads : List (List Byte)) : State :=
  { active with mgmt := { active.mgmt with requests := payloads.map fun payload => { source := 0, payload } } }

theorem witness_QueuedRequestsMeanTheSame :
    (codeOf (.abortHead (tool [1])) = some 18 ∧ requestOf (.abortHead (tool [1])) = some (tool [1]) ∧
      isRunning (queued [[18, 9, 1]]) = true ∧ canTake (queued [[18, 9, 1]]) = true ∧
      (queued [[18, 9, 1]]).mgmt.requests =
        [{ source := 0, payload := BitVec.ofNat 8 18 :: (tool [1]).tag :: (tool [1]).args }]) ∧
    (∀ p ∈ [[18, 9, 1], [], [35], [0, 7], [35, 9], [255, 9, 1]],
      isRunning (queued [p, [1, 4], [34, 5]]) = true ∧ canTake (queued [p, [1, 4], [34, 5]]) = true ∧
      (queued [p, [1, 4], [34, 5]]).mgmt.requests =
        { source := 0, payload := p } :: [{ source := 0, payload := [1, 4] }, { source := 0, payload := [34, 5] }]) ∧
    (∀ p ∈ [[], [35], [0, 7], [35, 9], [255, 9, 1]],
      requestOf (.unknownRequest 0 p) = some (payloadRequest 0 p) ∧
      ∀ c tag args, p = c :: tag :: args → c.toNat = 0 ∨ 34 < c.toNat) := by
  refine ⟨by decide, by decide, ?_⟩
  simp only [List.forall_mem_cons, List.cons.injEq]
  refine ⟨⟨rfl, ?_⟩, ⟨rfl, ?_⟩, ⟨rfl, ?_⟩, ⟨rfl, ?_⟩, ⟨rfl, ?_⟩, by simp⟩
  · intro c tag args e; cases e
  · intro c tag args e; simp at e
  · rintro c tag args ⟨rfl, -, -⟩; decide
  · rintro c tag args ⟨rfl, -, -⟩; decide
  · rintro c tag args ⟨rfl, -, -⟩; decide

/-- ABORT_HEAD leaves what waits behind it in order, a station reset leaves nothing (R160, R180). -/
theorem test_queue_order :
    (takeQueued (queued [[18, 9, 1], [1, 4], [34, 5]])).mgmt.requests = (queued [[1, 4], [34, 5]]).mgmt.requests ∧
      (takeQueued { queued [[34, 5], [1, 4]] with
        portD := { active.portD with link := .online } }).mgmt.requests = [] := by decide +kernel

theorem witness_StillWhileTheSwitchIsClosed : isRunning State.reset = false := by decide

theorem witness_IdentifyAnswersTheIdentity :
    (Admitted (tool []) active ∧ (tool []).args = []) ∧ Admitted (tool [1]) active ∧ (tool [1]).args ≠ [] :=
  ⟨⟨admits_tool [], rfl⟩, admits_tool _, by decide⟩

/-- Supervision lost: the presence is there and its source is really present. -/
def lost : State :=
  { active with
    mgmt := { active.mgmt with supLoss := true }
    cu := { active.cu with
      sources := active.cu.sources.set .supervisionLoss { resetSource .supervisionLoss with state := .served, real := true } } }

theorem witness_HeartbeatKeepsSupervision :
    (Admitted (tool []) lost ∧ (tool []).origin = 0 ∧ lost.mgmt.mode = .active ∧ lost.mgmt.supLoss = true ∧
      (lost.source .supervisionLoss).real = true ∧ (lost.source .supervisionLoss).sim = false) ∧
    (Admitted (tool []) active ∧ active.mgmt.supLoss = false) ∧
    (Admitted (interlock []) active ∧ (interlock []).origin = 62) ∧
    (Admitted (tool []) transparent ∧ transparent.mgmt.mode = .transparent) ∧ Admitted (tool [0]) active :=
  ⟨⟨⟨by decide, by decide, rfl⟩, by decide⟩, ⟨admits_tool _, rfl⟩, ⟨admits_interlock _, rfl⟩,
    ⟨admits_tool_transparent _, rfl⟩, admits_tool _⟩

theorem witness_StateReadsChangeNothing :
    (Admitted (tool []) transparent ∧ transparent.mgmt.limits = none) ∧
    (Admitted (tool []) active ∧ active.mgmt.limits = some limits) ∧ Admitted (tool [1]) active ∧
    Admitted (tool [2]) active ∧ Admitted (tool [3, 22]) active ∧
    Admitted (tool [2, BitVec.ofNat 8 (sourceNumber .limitReached)]) active ∧
    Admitted (tool [BitVec.ofNat 8 (recordCode .protect), 1]) active ∧
    Admitted (tool [BitVec.ofNat 8 (recordCode .protect), 2]) active :=
  ⟨⟨admits_tool_transparent _, rfl⟩, ⟨admits_tool _, rfl⟩, admits_tool _, admits_tool _, admits_tool _, admits_tool _,
    admits_tool _, admits_tool _⟩

theorem witness_ReadStateClearsClampedFlags :
    Admitted (tool [3, BitVec.ofNat 8 (fnCode .disk)]) active ∧ Admitted (tool [4]) active :=
  ⟨admits_tool _, admits_tool _⟩

/-- RINSE alone is DEVIATED, and the presence of its group is there. -/
def deviated : State :=
  (active.setFn .rinse { resetFn with assign := some ⟨4, 1⟩, dev := .deviated }).setSource .flowDev
    { resetSource .flowDev with state := .served, real := true, data := some (.function .rinse) }

theorem deviated_others : ∀ g : Fn, g = .rinse ∨ (deviated.fn g).dev = .inBand := fun g =>
  (by decide : ∀ g ∈ Fn.all, g = .rinse ∨ (deviated.fn g).dev = .inBand) g (Fn.mem_all g)

theorem witness_SetModeChangesTheMode :
    (Admitted (tool [1]) active ∧ active.mgmt.mode = .active) ∧ Admitted (tool [2]) active ∧
    (Admitted (tool [0]) transparent ∧ transparent.mgmt.mode = .transparent ∧ transparent.mgmt.limits = none) ∧
    (let s := { transparent with mgmt := { transparent.mgmt with limits := some limits } }
     Admitted (tool [1]) s ∧ s.mgmt.mode = .transparent ∧ s.mgmt.limits = some limits) ∧
    (Admitted (tool [0]) (headA .hold 1 active) ∧ anyHeadWorking (headA .hold 1 active) = true) ∧
    (Admitted (interlock [0]) lost ∧ anyHeadWorking lost = false ∧ lost.arb.hold = false ∧ lost.mgmt.supLoss = true ∧
      (lost.source .supervisionLoss).real = true ∧ (lost.source .supervisionLoss).sim = false) ∧
    (Admitted (tool [0]) deviated ∧ anyHeadWorking deviated = false ∧ deviated.arb.hold = false ∧
      deviationSource .rinse = some .flowDev ∧ (deviated.fn .rinse).dev = .deviated ∧
      deviated.source .pressureDevA = active.source .pressureDevA) :=
  ⟨⟨admits_tool _, rfl⟩, admits_tool _, ⟨admits_tool_transparent _, rfl, rfl⟩, ⟨⟨by decide, by decide, rfl⟩, rfl, rfl⟩,
    ⟨⟨by decide, by decide, rfl⟩, by decide⟩, ⟨⟨by decide, by decide, rfl⟩, by decide, rfl, rfl, by decide, by decide⟩,
    ⟨by decide, by decide, rfl⟩, by decide, rfl, rfl, rfl, rfl⟩

theorem reads_limits : wholeWalk limitsArgs (limitBytes limits) = some limits := by decide +kernel

theorem witness_LimitsAreWrittenOnce :
    let bad := { limits with pressureBand := 0 }
    wholeWalk limitsArgs (limitBytes limits) = some limits ∧ wholeWalk limitsArgs (limitBytes bad) = some bad ∧
      limitsOk limits = true ∧ limitsOk bad = false ∧ active.mgmt.limits ≠ none ∧ transparent.mgmt.limits = none ∧
      Admitted (interlock (limitBytes limits)) active ∧ Admitted (interlock (limitBytes bad)) transparent ∧
      Admitted (tool (limitBytes limits)) transparent :=
  ⟨reads_limits, by decide +kernel, by decide, by decide, by decide, rfl, admits_interlock _,
    admits_interlock_transparent _, admits_tool_transparent _⟩

theorem witness_LimitBlockStaysLocked :
    (active.mgmt.limits = some limits ∧ exec (.lineLoss .u) active = .next (after (.lineLoss .u) active)) ∧
    (active.mgmt.limits = some limits ∧ step active = .next (tick active)) := ⟨⟨rfl, rfl⟩, rfl, rfl⟩

/-- ARM at node 3, channel 7, ready, with a setpoint pending; no other key is assigned. -/
def armAt : State :=
  { active with
    fmap := { active.fmap with
      fns := active.fmap.fns.set .arm { resetFn with assign := some ⟨3, 7⟩, ready := true, lastTx := some ⟨200, 200⟩ } }
    slots := active.slots.set .arm (some { value := 200, written := 990 }) }

theorem armAt_others : ∀ f : Fn, f = .arm ∨ (armAt.fn f).assign = none := fun f =>
  (by decide : ∀ f ∈ Fn.all, f = .arm ∨ (armAt.fn f).assign = none) f (Fn.mem_all f)

theorem armAt_distinct : ChannelsDistinct armAt where
  functions f g c hf hg := by
    rcases armAt_others f with rfl | e
    · rcases armAt_others g with rfl | e
      · rfl
      · simp [e] at hg
    · simp [e] at hf
  sensor f c _ := by simp [armAt, active, State.reset]

/-- SENSOR at node 3, channel 0; ARM as above. -/
def sensorAt : State := { armAt with fmap := { armAt.fmap with sensor := some ⟨3, 0⟩ } }

theorem witness_MapFunctionReassigns :
    (wholeWalk mapArgs [0, 0] = some ⟨0, none⟩ ∧ wholeWalk mapArgs [23, 0] = some ⟨23, none⟩ ∧
      ¬(1 ≤ 0 ∧ 0 ≤ 22) ∧ ¬(1 ≤ 23 ∧ 23 ≤ 22)) ∧
    (∀ x ∈ [NodeChannel.mk 0 0, ⟨62, 0⟩, ⟨3, 8⟩, ⟨5, 7⟩],
      wholeWalk mapArgs [1, 1, BitVec.ofNat 8 x.node, BitVec.ofNat 8 x.channel] = some ⟨1, some x⟩ ∧
      ¬(1 ≤ x.node ∧ x.node ≤ 61 ∧ x.channel ≤ 7 ∧ x.node ≠ active.base.ownAddr)) ∧
    (∀ x ∈ [NodeChannel.mk 1 7, ⟨61, 0⟩, ⟨3, 7⟩, ⟨3, 0⟩],
      wholeWalk mapArgs [BitVec.ofNat 8 (fnCode .disk), 1, BitVec.ofNat 8 x.node, BitVec.ofNat 8 x.channel] =
        some ⟨fnCode .disk, some x⟩ ∧
      1 ≤ x.node ∧ x.node ≤ 61 ∧ x.channel ≤ 7 ∧ x.node ≠ sensorAt.base.ownAddr) ∧
    (partAuthority sensorAt .disk = false ∧ (sensorAt.fn .arm).assign = some ⟨3, 7⟩ ∧
      sensorAt.fmap.sensor = some ⟨3, 0⟩ ∧ sensorAt.fmap.sensor ≠ some ⟨61, 0⟩ ∧
      (∀ g ∈ Fn.all, g ≠ .disk → (sensorAt.fn g).assign ≠ some ⟨61, 0⟩) ∧ (sensorAt.fn .disk).assign = none) ∧
    partAuthority { armAt with arb := { armAt.arb with hold := true } } .disk = true ∧
    (wholeWalk mapArgs [22, 1, 61, 0] = some ⟨22, some ⟨61, 0⟩⟩ ∧ wholeWalk mapArgs [22, 0] = some ⟨22, none⟩ ∧
      ∀ g ∈ Fn.all, (sensorAt.fn g).assign ≠ some ⟨61, 0⟩) := by decide +kernel

theorem witness_MapFunctionReassigns_served :
    (∀ args, Admitted (tool args) sensorAt ∧ Admitted (tool args) deviated) ∧ partAuthority deviated .rinse = false ∧
      (deviated.fn .rinse).assign ≠ none ∧ deviationSource .rinse = some .flowDev ∧ (deviated.fn .rinse).dev = .deviated ∧
      ∀ g, g ≠ .rinse → deviationSource g = some .flowDev → (deviated.fn g).dev ≠ .deviated :=
  ⟨fun _ => ⟨⟨by decide, by decide, rfl⟩, by decide, by decide, rfl⟩, by decide, by decide, rfl, rfl,
    fun g h _ => by rcases deviated_others g with e | e <;> simp_all⟩

theorem witness_ToolRecordsAreRemovedOrClamped :
    (armAt.mgmt.mode = .active ∧ (armAt.fn .arm).assign = some ⟨3, (7 : Byte).toNat⟩ ∧ (7 : Byte).toNat ≤ 7 ∧
      7 < (8 : Byte).toNat ∧ transparent.mgmt.mode = .transparent ∧ partAuthority armAt .arm = false ∧
      (limitBounds armAt.lim .arm).lo ≤ (limitBounds armAt.lim .arm).hi ∧
      partAuthority { armAt with arb := { armAt.arb with hold := true } } .arm = true) ∧
    (frameKind (ownFrame 3 0 2 []) ≠ 1 ∧ frameDest (ownFrame 62 0 1 []) = 62 ∧ frameDest (ownFrame 0 0 1 []) = 0) ∧
    (∀ d ∈ [1, 3, 61], frameKind (ownFrame d 0 1 [1, 7, 0, 200]) = 1 ∧ frameDest (ownFrame d 0 1 [1, 7, 0, 200]) = d ∧
      framePayload (ownFrame d 0 1 [1, 7, 0, 200]) = 1 :: [7, 0, 200]) ∧
    (framePayload (ownFrame 3 0 1 (8 :: List.replicate 24 0)) = 8 :: List.replicate 24 0 ∧
      framePayload (ownFrame 3 0 1 [0]) = 0 :: []) ∧
    fnAt armAt 3 7 = some .arm := by decide +kernel

theorem witness_ToolRecordsAreRemovedOrClamped_distinct : ChannelsDistinct armAt := armAt_distinct

theorem witness_SlotWritesKeepTheFirstTime :
    transparent.mgmt.mode = .transparent ∧ active.mgmt.mode = .active := ⟨rfl, rfl⟩

/-- ARM's slot is eligible and a SETPOINT frame of the tool for it waits downbound, after a transmission of this class. -/
def dutiful (last : TxClass) (s : State) : State :=
  { s with fwd := { s.fwd with down := [ownFrame 3 0 1 [1, 7, 0, 200]] }, portD := { s.portD with last := last } }

theorem witness_SetpointFrameEmptiesItsSlots :
    (∃ x, setpointFrame armAt = some x) ∧ ChannelsDistinct armAt ∧
    (armAt.portD.tx = .free ∧ eligibleSlots armAt = [.arm] ∧ armAt.fwd.down = [] ∧
      (dutiful .forward armAt).portD.last = .forward ∧ (dutiful .own armAt).portD.last = .own ∧
      (dutiful .own armAt).portD.tx = .free) ∧
    (∃ sent, (judgeFrame (ownFrame 3 0 1 [1, 7, 0, 200]) { dutiful .own armAt with fwd := { armAt.fwd with down := [] } }).1 =
      some sent) ∧
    (let s := { armAt with arb := { armAt.arb with hold := true } }
     (judgeFrame (ownFrame 3 0 1 [1, 7, 0, 200]) { dutiful .own s with fwd := { s.fwd with down := [] } }).1 = none) ∧
    (eligibleSlots active = [] ∧ active.fwd.down = [] ∧ active.portD.tx = .free) :=
  ⟨Option.isSome_iff_exists.1 (by decide), armAt_distinct, by decide +kernel,
    Option.isSome_iff_exists.1 (by decide +kernel), by decide +kernel, by decide⟩

theorem witness_StepKeepsChannelsDistinct : ChannelsDistinct armAt ∧ step armAt = .next (tick armAt) :=
  ⟨armAt_distinct, rfl⟩

/-- The downbound and upbound queues hold this many frames, and both transmitters are busy. -/
def loaded (down up : Nat) : State :=
  { active with
    fwd := { down := List.replicate down [1], up := List.replicate up [2] }
    portU := { active.portU with tx := .busy [] }, portD := { active.portD with tx := .busy [] } }

theorem witness_PortUSortsFrames :
    isRunning (loaded 7 0) = true ∧ frameGood [1] = false ∧
    (frameGood (ownFrame 5 0 4 [1, 9]) = true ∧ frameDest (ownFrame 5 0 4 [1, 9]) = active.base.ownAddr ∧
      frameKind (ownFrame 5 0 4 [1, 9]) = 4 ∧ active.mgmt.requests.length < 4 ∧ 4 ≤ (blocked 4).mgmt.requests.length) ∧
    (frameGood (ownFrame 5 0 1 []) = true ∧ frameKind (ownFrame 5 0 1 []) ≠ 4) ∧
    (frameGood (ownFrame 6 0 1 []) = true ∧ frameDest (ownFrame 6 0 1 []) ≠ active.base.ownAddr) ∧
    (loaded 7 0).fwd.down.length < 8 ∧ 8 ≤ (loaded 8 0).fwd.down.length := by decide +kernel

theorem witness_PortDCopiesAndForwards :
    isRunning (loaded 0 15) = true ∧ (loaded 0 15).fwd.up.length < 16 ∧ frameGood [1] = false ∧
    16 ≤ (loaded 0 16).fwd.up.length ∧
    frameGood (ownFrame 0 3 2 [0]) = true ∧ frameKind (ownFrame 0 3 2 [0]) = 2 ∧
    frameGood (ownFrame 0 3 3 [0]) = true ∧ frameKind (ownFrame 0 3 3 [0]) = 3 ∧
    frameGood (ownFrame 0 3 1 [0]) = true ∧ frameKind (ownFrame 0 3 1 [0]) = 1 ∧
    (sensorAt.fmap.sensor.map NodeChannel.node = some (frameSource (ownFrame 0 3 3 [0])) ∧
      active.fmap.sensor.map NodeChannel.node ≠ some (frameSource (ownFrame 0 3 3 [0]))) ∧
    (framePayload (ownFrame 0 3 3 (8 :: List.replicate 48 1)) = 8 :: List.replicate 48 1 ∧
      framePayload (ownFrame 0 3 3 [9]) = 9 :: [] ∧ framePayload (ownFrame 0 3 3 [0]) = 0 :: []) := by decide +kernel

/-- Port D in a link state with an error streak. -/
def linkedD (link : LinkState) (streak : Nat) : State := { active with portD := { active.portD with link, streak } }

theorem witness_PortDCopiesAndForwards_link :
    ((linkedD .online 3).portD.link = .online ∧ (linkedD .online 3).portD.streak = 3) ∧
    ((linkedD .online 2).portD.link = .online ∧ (linkedD .online 2).portD.streak < 3) ∧
    (linkedD (.offline 0) 4).portD.link = .offline 0 ∧ (linkedD (.offline 1) 0).portD.link = .offline 1 := by decide

/-- R123: PORT_D_LOSS is really present from the fourth bad frame on, and no longer after the second good one. -/
theorem test_port_d_loss :
    ((after (.portDReceive [1]) (linkedD .online 3)).source .portDLoss).real = true ∧
    ((after (.portDReceive (ownFrame 0 3 1 [0])) ((linkedD (.offline 1) 0).setSource .portDLoss
      { resetSource .portDLoss with state := .served, real := true })).source .portDLoss).state = .idle := by
  decide +kernel

/-- Head A has a zone map, an open sweep and the last sweep number, and the calibration is loaded. -/
def sweeping : State :=
  { headA .polishing 1 active with
    samplers := active.samplers.set .a
      { zoneMap := some (List.replicate 59 (some .z1) ++ [none]), openSweep := some (PerZone.fill ⟨65535, 65535⟩)
        counter := 4294967295, history := List.replicate 8 { number := 7, closed := 0, zones := PerZone.fill none } }
    store := { active.store with cal := some film } }

theorem witness_PortDCopiesAndForwards_samples :
    (sweeping.sampler .a).zoneMap = some (List.replicate 59 (some .z1) ++ [none]) ∧
    (List.replicate 59 (some Zone.z1) ++ [none]).length = 60 ∧ sweeping.store.cal = some film ∧
    (List.replicate 59 (some Zone.z1) ++ [none])[589 / 10]? = some (some .z1) ∧
    (List.replicate 59 (some Zone.z1) ++ [none])[599 / 10]? = some none ∧ 600 ≤ 600 ∧
    (sweeping.sampler .b).zoneMap = none ∧ (sweeping.sampler .b).openSweep = none ∧
    (sweeping.sampler .a).openSweep = some (PerZone.fill ⟨65535, 65535⟩) ∧
    (sweeping.seq .a).state = .polishing ∧ (sweeping.currentStep .a).map StepRecord.minSamples = some 3 ∧
    (sweeping.seq .b).state ∉ [HeadState.polishing, .paused] ∧ (sweeping.sampler .a).counter = 4294967295 ∧
    (sweeping.sampler .a).history.length = 8 := by decide +kernel

/-- ARM was last told 200; RINSE was, too, in a deviation state and with an echo count. -/
def told (dev : DevState) (echo : Nat) : State :=
  armAt.setFn .rinse { resetFn with lastTx := some ⟨200, 200⟩, dev := dev, echo := echo }

theorem witness_PortDCopiesAndForwards_statuses :
    ((armAt.fn .arm).assign = some ⟨3, 7⟩ ∧ (armAt.fn .rinse).assign = none ∧ ChannelsDistinct armAt) ∧
    ((active.fn .arm).lastTx = none ∧ (armAt.fn .arm).lastTx = some ⟨200, 200⟩ ∧ ((told .inBand 0).fn .rinse).echo = 0 ∧
      1 ≤ ((told .inBand 1).fn .rinse).echo) ∧
    (Fn.rinse ∈ [Fn.dose1, .dose2, .dose3, .rinse] ∧ Fn.rinse ∉ [Fn.arm, .force, .disk] ∧
      (∀ d ∈ [DevState.inBand, .dwell 1000, .deviated], ((told d 0).fn .rinse).dev = d ∧
        ((told d 0).fn .rinse).lastTx = some ⟨200, 200⟩ ∧
        ∀ g ∈ Fn.all, g ≠ .rinse → deviationSource g = some .flowDev → ((told d 0).fn g).dev ≠ .deviated) ∧
      deviationSource .rinse = some .flowDev ∧ (told .inBand 0).lim.flowBand = 5 ∧
      (5 : Int) < |((206 : Nat) : Int) - (told .inBand 0).offset .rinse - (200 : Int)| ∧
      ¬(5 : Int) < |((205 : Nat) : Int) - (told .inBand 0).offset .rinse - (200 : Int)|) :=
  ⟨⟨rfl, rfl, armAt_distinct⟩, by decide, by decide⟩

/-- The conditioner in segment 1 or 2 of program 0, in a phase. -/
def conditioning (segment : Nat) (phase : CondPhase) : State :=
  { active with cdr := { active.cdr with
      run := some { program := 0, force := 120, speed := 60, segment, phase, target := 100, passes := 0 } } }

theorem witness_PortDCopiesAndForwards_arrival :
    (∀ d ∈ [none, some (1000 : Time)], (conditioning 1 (.travel d)).cdr.run.map CondRun.phase = some (.travel d)) ∧
    (conditioning 1 (.dwell 1000)).cdr.run.map CondRun.phase = some (.dwell 1000) ∧
    (|((110 : Nat) : Int) - (conditioning 1 (.dwell 1000)).offset .arm - 100| ≤ 10 ∧
      (10 : Int) < |((111 : Nat) : Int) - (conditioning 1 (.dwell 1000)).offset .arm - 100|) ∧
    tableGet (conditioning 1 (.dwell 1000)).cdr.programs 0 = some ⟨120, 60, [⟨50, 1000⟩, ⟨900, 2000⟩]⟩ :=
  ⟨fun d _ => rfl, rfl, ⟨by rw [show (conditioning 1 (.dwell 1000)).offset .arm = 0 from rfl]; decide,
    by rw [show (conditioning 1 (.dwell 1000)).offset .arm = 0 from rfl]; decide⟩, rfl⟩

theorem witness_LinkStateTable :
    let p (l : LinkState) (n : Nat) : PortState := { link := l, streak := n, tx := .free, last := .own }
    (p .online 2).streak + 1 < 4 ∧ (p .online 3).streak + 1 = 4 ∧ (p .online 2).link = .online ∧
      (p (.offline 0) 4).link = .offline 0 ∧ (p (.offline 1) 0).link = .offline 1 := by decide

theorem witness_LineLossAndTransmitEnd :
    isRunning active = true ∧ active.portD.link ≠ .online ∧
      { active with portD := { active.portD with link := .online } }.portD.link = .online := by decide

theorem witness_SettleMovesOnlyTraffic : (loaded 1 1).portU.tx ≠ .free ∧ (loaded 1 1).portD.tx ≠ .free := by decide

/-- A free Port U, with these responses, events and upbound frames, that last served this class. -/
def sending (responses events up : Nat) (last : TxClass) : State :=
  { active with
    portU := { active.portU with tx := .free, last := last }
    fwd := { active.fwd with up := List.replicate up [2] }
    mgmt := { active.mgmt with
      responses := List.replicate responses ⟨0, 1, .done, []⟩
      events := List.replicate events ⟨.stationHold, none, 0, [], false⟩ } }

/-- An EVENT frame's records wait, the first a STATION_RESET, and a response is held back for it. -/
def released : State :=
  { active with mgmt := { active.mgmt with
      heldBack := some ⟨0, 1, .done, []⟩, events := [⟨.stationReset, none, 0, [1, 0, 0], false⟩] } }

theorem witness_PortUTakesTurns :
    (sending 1 0 1 .forward).mgmt.responses = ⟨0, 1, .done, []⟩ :: [] ∧ (sending 1 0 1 .forward).portU.last = .forward ∧
      (sending 0 5 0 .own).mgmt.responses = [] ∧ (sending 0 5 0 .own).mgmt.events ≠ [] ∧ (sending 0 5 0 .own).fwd.up = [] ∧
      (sending 0 5 0 .own).mgmt.heldBack = none ∧
      (sending 1 1 2 .own).fwd.up = [2] :: [[2]] ∧ (sending 1 1 2 .own).portU.last = .own ∧
      (sending 1 1 2 .own).portU.tx = .free ∧
      (released.portU.tx = .free ∧ released.mgmt.responses = [] ∧ released.fwd.up = [] ∧
        released.mgmt.heldBack = some ⟨0, 1, .done, []⟩ ∧
        ∃ e ∈ released.mgmt.events.take 4, e.kind = .stationReset) ∧
      ((sending 0 31 0 .own).mgmt.events.length < 32 ∧ 32 ≤ (sending 0 32 0 .own).mgmt.events.length) := by decide

/-- The argument bytes of a LOAD_STEP: index 31, end mode TIME, no optional field. -/
def stepBytes : List Byte :=
  [31, 1] ++ u32 5000 ++ (List.replicate 7 (u16 20)).flatten ++ [0, 0, 0, 0, 0]

def stepRead : StepArgs :=
  { index := 31, endMode := 1, limit := 5000, base := PerArea.fill 20, bounds := none, minSamples := none, control := none
    endpoint := none, pad := none }

theorem witness_LoadStepStoresTheRecord :
    Admitted (tool stepBytes) active ∧ wholeWalk stepArgs stepBytes = some stepRead ∧ stepRead.index ≤ 31 ∧
      active.mgmt.limits = some limits ∧ stepInUse active stepRead.index = false ∧
      endModeOfCode stepRead.endMode = some .time ∧ stepFieldsOk stepRead .time = true ∧
      boundsOk stepRead.bounds.isSome (effectiveBounds limits stepRead.bounds) = true ∧ limitsOk limits = true :=
  ⟨admits_tool _, by decide +kernel, by decide, rfl, by decide, rfl, by decide, rfl, by decide⟩

/-- The argument bytes of a LOAD_STEP with this index, end mode, time limit and step bounds. -/
def stepBytesOf (index endMode : Byte) (limit : Nat) (bounds : List Byte) : List Byte :=
  [index, endMode] ++ u32 limit ++ (List.replicate 7 (u16 20)).flatten ++ bounds ++ [0, 0, 0, 0]

/-- Step bounds whose minimum lies above the limit block's maximum of 450. -/
def crossed : PerArea Bounds := PerArea.fill ⟨451, 1000⟩

theorem witness_LoadStepStoresTheRecord_refusals :
    wholeWalk stepArgs (stepBytesOf 32 1 5000 [0]) = some { stepRead with index := 32 } ∧
    (wholeWalk stepArgs stepBytes = some stepRead ∧ transparent.mgmt.limits = none) ∧
    (wholeWalk stepArgs (stepBytesOf 0 1 5000 [0]) = some { stepRead with index := 0 } ∧
      isRunning (headA .paused 1 active) = true ∧ takesAtOnce (headA .paused 1 active) = true ∧
      (headA .paused 1 active).mgmt.limits = some limits ∧ stepInUse (headA .paused 1 active) 0 = true) ∧
    (wholeWalk stepArgs (stepBytesOf 31 4 5000 [0]) = some { stepRead with endMode := 4 } ∧ endModeOfCode 4 = none) ∧
    (wholeWalk stepArgs (stepBytesOf 31 1 999 [0]) = some { stepRead with limit := 999 } ∧
      stepFieldsOk { stepRead with limit := 999 } .time = false) ∧
    (wholeWalk stepArgs (stepBytesOf 31 1 5000 (1 :: (List.replicate 7 (u16 451 ++ u16 1000)).flatten)) =
        some { stepRead with bounds := some crossed } ∧
      stepFieldsOk { stepRead with bounds := some crossed } .time = true ∧
      boundsOk true (effectiveBounds limits (some crossed)) = false) := by decide +kernel

theorem witness_HeadsAreLoaded :
    (Admitted (tool [1, 2, 0, 1]) active ∧ wholeWalk programArgs [1, 2, 0, 1] = some { head := headCode .a, steps := [0, 1] } ∧
      (∀ i ∈ [0, 1], i ≤ 31 ∧ tableGet active.steps i ≠ none) ∧ headWorking active .a = false) ∧
    headWorking (headA .paused 1 active) .a = true ∧
    (wholeWalk zoneMapArgs (2 :: List.replicate 60 6) = some { head := headCode .b, entries := List.replicate 60 6 } ∧
      (List.replicate 60 6).mapM mapEntryOfCode = some (List.replicate 60 (some Zone.z6)) ∧
      headWorking active .b = false) :=
  ⟨⟨admits_tool _, by decide, by decide, by decide⟩, by decide, by decide +kernel, by decide +kernel, by decide⟩

theorem witness_HeadsAreLoaded_map :
    (∃ z, some z ∈ List.replicate 60 (some Zone.z6)) ∧
      ((List.replicate 60 (some Zone.z6)).filterMap (Option.map zoneCode)).Pairwise (· ≤ ·) :=
  ⟨⟨.z6, by decide +kernel⟩, by decide +kernel⟩

theorem witness_PadTablesAreLoaded :
    (wholeWalk blendArgs (7 :: (u16 350 ++ u16 500 ++ u16 333 ++ u16 167 ++ u16 40)) =
        some { index := 7, blend := ⟨350, 500, 333, 167, 40⟩ } ∧
      blendOk ⟨350, 500, 333, 167, 40⟩ = true ∧ blendInUse active 7 = false) ∧
    (wholeWalk conditioningArgs (3 :: (u16 120 ++ u8 60 ++ u8 1 ++ u16 50 ++ u16 10)) =
        some { index := 3, program := ⟨120, 60, [⟨50, 10⟩]⟩ } ∧
      condProgramOk ⟨120, 60, [⟨50, 10⟩]⟩ = true ∧ conditioningInUse active 3 = false) ∧
    (wholeWalk padServiceArgs [7, 1, 0, 1, 0] = some { entry := 7, service := ⟨some 0, some 0⟩ } ∧
      tableGet active.dose.blends 0 ≠ none ∧ tableGet active.cdr.programs 0 ≠ none ∧ entryInUse active 7 = false) := by
  decide +kernel

theorem witness_StartHeadEntersPolishing :
    Admitted (tool [1]) active ∧ namesHead (tool [1]) .a ∧ active.mgmt.mode = .active ∧
      (active.seq .a).state = .ready ∧ (active.seq .a).program = some (0 :: [1]) ∧
      (∀ j ∈ 0 :: [1], tableGet active.steps j ≠ none) ∧
      (∀ j ∈ 0 :: [1], ∀ x, tableGet active.steps j = some x → x.control = none ∧ x.endpoint = none) ∧
      (∀ j ∈ 0 :: [1], ∀ x e, tableGet active.steps j = some x → x.pad = some e → tableGet active.arb.table e ≠ none) ∧
      tableGet active.steps 0 = some plainStep ∧ plainStep.pad = none ∧ active.arb.service = none := by
  refine ⟨admits_tool _, rfl, rfl, rfl, rfl, by decide, ?_, ?_, rfl, rfl, rfl⟩
  · intro j hj x hx
    simp only [List.mem_cons, List.not_mem_nil, or_false] at hj
    rcases hj with rfl | rfl <;> cases hx <;> exact ⟨rfl, rfl⟩
  · intro j hj x e hx he
    simp only [List.mem_cons, List.not_mem_nil, or_false] at hj
    rcases hj with rfl | rfl
    · cases hx; cases he
    · cases hx; cases he; decide

/-- Head A READY with the watched step 2, for which there is no valid working copy and no zone map. -/
def unmeasured : State :=
  { active with store := { active.store with cal := none } }.setSeq .a { active.seq .a with program := some [2] }

/-- No pad service entry is loaded. -/
def entryless : State := { active with arb := { active.arb with table := [] } }

theorem witness_StartHeadEntersPolishing_refusals :
    (Admitted (tool [0]) active ∧ Admitted (tool [3]) active ∧ (0 : Byte) ≠ 1 ∧ (0 : Byte) ≠ 2 ∧ (3 : Byte) ≠ 1 ∧
      (3 : Byte) ≠ 2) ∧
    (Admitted (tool [1]) transparent ∧ transparent.mgmt.mode = .transparent) ∧
    (∀ x ∈ [HeadState.empty, .waitPad, .polishing, .paused, .hold],
      Admitted (tool [1]) (headA x 1 active) ∧ (headA x 1 active).mgmt.mode = .active ∧
        ((headA x 1 active).seq .a).state = x) ∧
    (Admitted (tool [1]) unmeasured ∧ (unmeasured.seq .a).state = .ready ∧ (unmeasured.seq .a).program = some [2] ∧
      tableGet unmeasured.steps 2 = some watchedStep ∧ watchedStep.control ≠ none ∧ unmeasured.store.cal = none ∧
      (unmeasured.sampler .a).zoneMap = none) ∧
    (Admitted (tool [2]) entryless ∧ namesHead (tool [2]) .b ∧ (entryless.seq .b).state = .ready ∧
      (entryless.seq .b).program = some [1] ∧ tableGet entryless.steps 1 = some { plainStep with pad := some 0 } ∧
      tableGet entryless.arb.table 0 = none) := by
  refine ⟨⟨admits_tool _, admits_tool _, by decide, by decide, by decide, by decide⟩, ⟨admits_tool_transparent _, rfl⟩,
    ?_, ⟨⟨by decide, by decide, rfl⟩, by decide⟩, ⟨by decide, by decide, rfl⟩, rfl, by decide⟩
  simp only [List.forall_mem_cons]
  exact ⟨⟨⟨by decide, by decide, rfl⟩, rfl, rfl⟩, ⟨⟨by decide, by decide, rfl⟩, rfl, rfl⟩,
    ⟨⟨by decide, by decide, rfl⟩, rfl, rfl⟩, ⟨⟨by decide, by decide, rfl⟩, rfl, rfl⟩,
    ⟨⟨by decide, by decide, rfl⟩, rfl, rfl⟩, by simp⟩

/-- The station with a pad entry granted to head A alone, or with station hold on. -/
def granted (e : Nat) : State := { active with arb := { active.arb with service := some ⟨e, ⟨true, false⟩, 990⟩ } }
def onHold : State := { active with arb := { active.arb with hold := true } }

theorem witness_StartHeadAtAPadStep :
    (∀ s ∈ [active, granted 0, granted 1, onHold],
      isRunning s = true ∧ takesAtOnce s = true ∧ s.mgmt.mode = .active ∧ (s.seq .b).state = .ready ∧
      (s.seq .b).timer = .stopped ∧ (s.seq .b).gap = none ∧ (s.seq .b).program = some (1 :: []) ∧
      tableGet s.steps 1 = some { plainStep with pad := some 0 } ∧ tableGet s.arb.table 0 ≠ none) ∧
    (active.arb.hold = false ∧ active.arb.service = none) ∧ onHold.arb.hold = true ∧
    ((granted 0).arb.hold = false ∧ (granted 0).arb.service = some ⟨0, ⟨true, false⟩, 990⟩) ∧
    ((granted 1).arb.service = some ⟨1, ⟨true, false⟩, 990⟩ ∧ (1 : Nat) ≠ 0) := by decide

theorem witness_PadTablesAreLoaded_refusals :
    (wholeWalk blendArgs (8 :: (u16 350 ++ u16 500 ++ u16 333 ++ u16 167 ++ u16 40)) =
        some { index := 8, blend := ⟨350, 500, 333, 167, 40⟩ } ∧
      wholeWalk blendArgs (7 :: (u16 350 ++ u16 500 ++ u16 333 ++ u16 166 ++ u16 40)) =
        some { index := 7, blend := ⟨350, 500, 333, 166, 40⟩ } ∧ blendOk ⟨350, 500, 333, 166, 40⟩ = false ∧
      wholeWalk blendArgs (0 :: (u16 350 ++ u16 500 ++ u16 333 ++ u16 167 ++ u16 40)) =
        some { index := 0, blend := ⟨350, 500, 333, 167, 40⟩ } ∧ blendInUse (granted 0) 0 = true) ∧
    (wholeWalk conditioningArgs (4 :: (u16 120 ++ u8 60 ++ u8 1 ++ u16 50 ++ u16 10)) =
        some { index := 4, program := ⟨120, 60, [⟨50, 10⟩]⟩ } ∧
      wholeWalk conditioningArgs (3 :: (u16 120 ++ u8 60 ++ u8 1 ++ u16 50 ++ u16 9)) =
        some { index := 3, program := ⟨120, 60, [⟨50, 9⟩]⟩ } ∧ condProgramOk ⟨120, 60, [⟨50, 9⟩]⟩ = false ∧
      wholeWalk conditioningArgs (0 :: (u16 120 ++ u8 60 ++ u8 1 ++ u16 50 ++ u16 10)) =
        some { index := 0, program := ⟨120, 60, [⟨50, 10⟩]⟩ } ∧ conditioningInUse (granted 0) 0 = true) ∧
    (wholeWalk padServiceArgs [8, 0, 0] = some { entry := 8, service := ⟨none, none⟩ } ∧
      wholeWalk padServiceArgs [7, 1, 8, 1, 4] = some { entry := 7, service := ⟨some 8, some 4⟩ } ∧
      wholeWalk padServiceArgs [0, 0, 0] = some { entry := 0, service := ⟨none, none⟩ } ∧
      entryInUse (granted 0) 0 = true ∧
      wholeWalk padServiceArgs [7, 1, 7, 1, 3] = some { entry := 7, service := ⟨some 7, some 3⟩ } ∧
      entryInUse active 7 = false ∧ tableGet active.dose.blends 7 = none ∧ tableGet active.cdr.programs 3 = none) ∧
    (isRunning (granted 0) = true ∧ takesAtOnce (granted 0) = true) := by decide +kernel

theorem witness_PauseFreezesAndResumeGoesOn :
    Admitted (tool [1]) (headA .polishing 1 active) ∧ Admitted (tool [1]) (headA .paused 1 active) ∧
      namesHead (tool [1]) .a ∧ ((headA .polishing 1 active).seq .a).state = .polishing ∧
      ((headA .paused 1 active).seq .a).state = .paused ∧
      (headA .paused 1 active).currentStep .a = some plainStep ∧ Admitted (tool [3]) active ∧
      (3 : Byte) ≠ BitVec.ofNat 8 (headCode .a) ∧ (3 : Byte) ≠ BitVec.ofNat 8 (headCode .b) :=
  ⟨⟨by decide, by decide, rfl⟩, ⟨by decide, by decide, rfl⟩, rfl, rfl, rfl, rfl, admits_tool _, by decide, by decide⟩

/-- Contents staged, and a record in the engine. -/
def staged (c : Contents) (engine : Option Write) : State :=
  { active with store := { active.store with staged := some { contents := c, origin := .tool }, engine := engine } }

/-- Head A, polishing, holds entry 0, alone or with head B, and head B waits for entry 1 or not. -/
def holding (both waits : Bool) : State :=
  { headA .polishing 2 active with
    arb := { active.arb with service := some ⟨0, ⟨true, both⟩, 990⟩, waiting := if waits then [(.b, 1)] else [] }
    seqs := (headA .polishing 2 active).seqs.set .b { active.seqs.b with
      state := if waits then .waitPad else if both then .polishing else .ready, position := some 1 } }

theorem witness_SkipOfTheLastStepEndsTheProgram :
    (∀ s ∈ [headA .polishing 2 active, headA .waitPad 2 active, headA .paused 2 active, holding false true],
      isRunning s = true ∧ takesAtOnce s = true ∧ (s.seq .a).state ∈ [HeadState.waitPad, .polishing, .paused] ∧
      (s.seq .a).program = some [0, 1] ∧ (s.seq .a).position = some [0, 1].length ∧ (s.seq .a).current ≠ none) ∧
    ((headA .waitPad 1 active).seq .a).position = some 1 ∧ 1 < [0, 1].length ∧
    ((headA .hold 1 active).seq .a).state ∉ [HeadState.waitPad, .polishing, .paused] ∧ namesHead (tool [1]) .a ∧
    (active.store.engine = none ∧ (staged (.wear noWear) (some ⟨.wear noWear, .internal⟩)).store.engine ≠ none) :=
  ⟨by decide, rfl, by decide, by decide, rfl, rfl, by decide⟩

theorem witness_AbortHeadEndsTheProgram :
    (∀ s ∈ [headA .hold 1 active, headA .waitPad 1 active, holding false true],
      isRunning s = true ∧ takesAtOnce s = true ∧ (s.seq .a).current ≠ none ∧
      (s.seq .a).state ∈ [HeadState.waitPad, .polishing, .paused, .hold]) ∧ namesHead (tool [1]) .a ∧
    (active.seq .a).state = .ready ∧ active.arb.service = none ∧
    (∀ both waits, (holding both waits).arb.service = some ⟨0, ⟨true, both⟩, 990⟩ ∧
      (holding both waits).mgmt.mode = .active) ∧
    (holding false false).arb.waiting = [] ∧
    ((holding false true).arb.waiting = (.b, 1) :: [] ∧ ((holding false true).seq .b).state = .waitPad ∧
      (holding false true).currentStep .b ≠ none ∧
      (tableGet (holding false true).arb.table 1).bind PadService.program = none ∧
      (tableGet (holding false true).arb.table 0).bind PadService.program = some 0 ∧
      tableGet (holding false true).cdr.programs 0 = some ⟨120, 60, [⟨50, 1000⟩, ⟨900, 2000⟩]⟩) :=
  ⟨by decide, rfl, rfl, rfl, fun _ _ => ⟨rfl, rfl⟩, rfl, by decide⟩

theorem witness_HeadReadsChangeNothing :
    Admitted (tool [1, 1]) active ∧ Admitted (tool [2, 2, 12]) active ∧ Admitted (tool [1, 1, 6]) active ∧
      Admitted (tool [2, 2, 8]) active :=
  ⟨admits_tool _, admits_tool _, admits_tool _, admits_tool _⟩

theorem witness_StepTimerExpiryActsByEndMode :
    let s := headA .polishing 1 active
    isRunning s = true ∧ currentIndex (s.seq .a) = some 0 ∧ tableGet s.steps 0 = some plainStep ∧
      (s.seq .a).timer = .running 900 ∧ reached s.base.time 900 = true ∧ plainStep.endMode ≠ .endpoint ∧
      watchedStep.endMode = .endpoint ∧ (active.seq .a).timer = .stopped ∧ s.store.engine = none := by decide

theorem witness_StepEndEntersTheNextStep :
    (let s := { headA .polishing 1 active with steps := [some plainStep, some plainStep] }
     (s.seq .a).program = some [0, 1] ∧ (s.seq .a).position = some 1 ∧ 1 < [0, 1].length ∧ [0, 1][1]? = some 1 ∧
      tableGet s.steps 1 = some plainStep ∧ plainStep.pad = none ∧ (s.seq .a).current ≠ none) ∧
    (let s := (holding false false).setSeq .a { (holding false false).seq .a with position := some 1 }
     (s.seq .a).program = some [0, 1] ∧ (s.seq .a).position = some 1 ∧
      tableGet s.steps 1 = some { plainStep with pad := some 0 } ∧ (s.seq .a).current ≠ none ∧ s.arb.hold = false ∧
      s.arb.service = some ⟨0, ⟨true, false⟩, 990⟩) := by decide

theorem witness_TimerExpiriesReport :
    (isRunning active = true ∧ reached active.base.time 1000 = true) ∧
    (currentIndex ((headA .polishing 1 active).seq .a) = some 0 ∧
      ((headA .polishing 1 active).seq .a).gap = some 950 ∧ reached active.base.time 950 = true) ∧
    ((conditioning 1 (.travel (some 1000))).cdr.run.map CondRun.phase = some (.travel (some 1000))) ∧
    { active with mgmt := { active.mgmt with supTimer := some 1000 } }.mgmt.supTimer = some 1000 ∧
    (let s := active.setFn .dose1 { resetFn with dev := .dwell 1000 }
     (s.fn .dose1).dev = .dwell 1000 ∧ deviationSource .dose1 = some .flowDev ∧
       (∀ g ∈ Fn.all, deviationSource g = some .flowDev → (s.fn g).dev ≠ .deviated)) ∧
    (let s := (active.setFn .dose1 { resetFn with dev := .dwell 1000 }).setFn .rinse { resetFn with dev := .deviated }
     deviationSource .rinse = some .flowDev ∧ (s.fn .rinse).dev = .deviated) := by decide

theorem witness_FlowSplitKeepsTheTotal :
    500 + 333 + 167 = 1000 ∧ { limits with totalMax := 300 }.totalMax ≤ limits.dose3Max := by decide

theorem witness_DwellExpiryAddsWearAndTravelsOn :
    (∀ n ∈ [1, 2],
      let s := conditioning n (.dwell 1000)
      isRunning s = true ∧ s.cdr.run.map CondRun.phase = some (.dwell 1000) ∧ reached s.base.time 1000 = true ∧
        tableGet s.cdr.programs 0 = some ⟨120, 60, [⟨50, 1000⟩, ⟨900, 2000⟩]⟩) ∧
    [Segment.mk 50 1000, ⟨900, 2000⟩][1]? = some ⟨900, 2000⟩ ∧ [Segment.mk 50 1000, ⟨900, 2000⟩][0]? = some ⟨50, 1000⟩ := by
  decide

/-- Pad and disk counters at these values, with these presences. -/
def used (pad disk : Nat) (padWorn diskWorn : Bool) : State :=
  { active with
    store := { active.store with live := { active.store.live with pad := pad, disk := disk } }
    cdr := { active.cdr with padWorn := padWorn, diskWorn := diskWorn } }

theorem witness_ReplacingAConsumable :
    (Admitted (tool [1]) active ∧ Admitted (tool [2]) active ∧ Admitted (tool [3]) active ∧ active.cdr.run = none ∧
      Admitted (tool [1]) (conditioning 1 (.dwell 1000)) ∧ (conditioning 1 (.dwell 1000)).cdr.run ≠ none) ∧
    (∀ p d, wornOut (used 3 4 p d) Wear.pad LimitBlock.padLife ∧ wornOut (used 3 4 p d) Wear.disk LimitBlock.diskLife ∧
      ¬wornOut (used 2 3 p d) Wear.pad LimitBlock.padLife ∧ ¬wornOut (used 2 3 p d) Wear.disk LimitBlock.diskLife) ∧
    ¬wornOut { transparent with store := (used 3 4 true true).store } Wear.pad LimitBlock.padLife :=
  ⟨⟨admits_tool _, admits_tool _, admits_tool _, rfl, ⟨by decide, by decide, rfl⟩, by decide⟩,
    fun p d => by simp [wornOut, used, active, limits], by simp [wornOut, transparent]⟩

/-- The record N of a close, and an older one, with a mean in Z1. -/
def sweep (number : Nat) (closed : Time) (mean : Nat) : SweepRecord :=
  { number, closed, zones := (PerZone.fill none).set .z1 (some ⟨mean, 3⟩) }

def targets : EndpointSection := { zones := PerZone.fill ⟨some 5000, none⟩, margin := 300, confirm := 2 }

/-- The two worked zones of 03 section 3.6 for the rate stage, and each other status of it. -/
theorem witness_CorrectionsStayWithinBounds :
    ((⟨50, 50⟩ : Bounds).lo ≤ (⟨50, 50⟩ : Bounds).hi ∧ 1 ≤ 1 ∧ { half with gain := 0 }.gain = 0) ∧
    (let st (older : List SweepRecord) (n : SweepRecord) (cleared : Bool) :=
       (rateStage half targets (older ++ [n]) n (PerZone.fill cleared) 200 .z1).status
     st [sweep 7 0 51500] (sweep 8 6000 48200) false = .corrected ∧
      st [sweep 7 0 48259] (sweep 8 6000 48200) false = .slow ∧
      st [sweep 7 6000 51500] (sweep 8 6000 48200) false = .zeroInterval ∧ st [] (sweep 8 6000 48200) false = .oneRecord ∧
      st [] (sweep 8 6000 48200) true = .cleared) ∧
    (rateStage half { targets with zones := PerZone.fill ⟨none, none⟩ } [] (sweep 8 6000 48200) (PerZone.fill false) 200
        .z1).status = .noTarget ∧
    (rateStage half targets [] (sweep 8 6000 48200) (PerZone.fill false) 200 .z2).status = .absent ∧
    (rateStage half targets [sweep 7 0 48260, sweep 8 6000 48200] (sweep 8 6000 48200) (PerZone.fill false) 200
        .z1).rate = some 10 := by decide

theorem witness_CorrectionsStayWithinBounds_close :
    ((sweeping.seq .a).state = .polishing ∧ sweeping.currentStep .a = some plainStep ∧
      ((headA .paused 1 active).seq .a).state = .paused ∧ (active.seq .a).state ∉ [HeadState.polishing, .paused]) ∧
    ((targets.zones.get .z1).target = some 5000 ∧ (sweep 8 0 5300).zones.get .z1 = some ⟨5300, 3⟩ ∧
      5300 ≤ 5000 + targets.margin ∧ 5000 + targets.margin < 5301 ∧ (active.seq .a).cleared.get .z1 = false ∧
      (active.seq .a).confirm.get .z1 + 1 < targets.confirm) ∧
    (watchedStep.control = some half ∧ watchedStep.endpoint ≠ none ∧ plainStep.endpoint = none) := by decide

theorem witness_ConversionFollowsThePoints :
    (film.map CalPoint.raw).Pairwise (· < ·) ∧ (∀ p ∈ film, p.thick ≤ 200000) ∧ film[14]? = some ⟨60000, 800⟩ ∧
      film[15]? = some ⟨64000, 0⟩ ∧ film.getLast? = some ⟨64000, 0⟩ := by decide

/-- ARM_STALL pending. -/
def stalled : State := active.setSource .armStall { resetSource .armStall with state := .pending, data := some (.arm 0 1 100) }

/-- PAD_WORN present by its simulation flag alone, or really too. -/
def simulated (real : Bool) : State :=
  active.setSource .padWorn { resetSource .padWorn with state := .served, sim := true, real := real }

theorem witness_TakingRunsTakeTheMostSevere :
    nextTaken stalled = some .armStall ∧
    ((active.source .armStall).state = .idle ∧ (stalled.source .armStall).state ≠ .idle) ∧
    ((lost.source .supervisionLoss).real = true ∧
      ((simulated false).source .padWorn).real = false ∧ ((simulated false).source .padWorn).sim = true ∧
      (active.source .padWorn).real = false ∧ (active.source .padWorn).sim = false) := by decide

theorem witness_ActionsMoveTheHeads :
    ((active.source .armStall).action = .note ∧ (active.source .pressureDevA).action = .pause ∧
      scopeHead .pressureDevA none = some .a ∧ (active.source .portDLoss).action = .hold ∧
      scopeHead .portDLoss none = none ∧ ((headA .polishing 1 active).seq .a).state = .polishing ∧
      (active.seq .a).state ∉ [HeadState.waitPad, .polishing, .paused] ∧ active.arb.hold = false) ∧
    (let s := (holding false true).setSource .pressureDevA { resetSource .pressureDevA with action := .hold }
     (s.source .pressureDevA).action = .hold ∧ scopeHead .pressureDevA (s.source .pressureDevA).data = some .a ∧
      (s.seq .a).state = .polishing ∧ (s.seq .b).state = .waitPad ∧ s.arb.hold = false ∧
      ((applyAction .pressureDevA s).seq .b).state = .polishing) := by decide +kernel

theorem witness_SourceRequests :
    (Admitted (tool [10, 1, 15, 3]) active ∧ isSpecial .armStall = false ∧ (Action.hold ≠ .reset)) ∧
    (Admitted (tool [2, 0, 0, 4]) active ∧ Admitted (interlock [2, 0, 0, 4]) active ∧ isSpecial .portDLoss = true) ∧
    (Admitted (tool [10]) active ∧ isLevel .armStall = false) ∧
    (Admitted (interlock [12]) active ∧ isLevel .padWorn = true ∧ (active.source .padWorn).sim = false ∧
      (active.source .padWorn).real = false) ∧
    (∀ b, Admitted (interlock [12]) (simulated b) ∧ Admitted (tool [12]) (simulated b) ∧
      ((simulated b).source .padWorn).sim = true ∧ ((simulated b).source .padWorn).real = b) ∧
    (Admitted (interlock [16, 2, 1, 0]) active ∧ (active.source .limitReached).state = .idle ∧
      (stalled.source .armStall).state ≠ .idle) ∧
    Admitted (tool [16, 2, 1, 0]) active :=
  ⟨⟨admits_tool _, rfl, by decide⟩, ⟨admits_tool _, admits_interlock _, rfl⟩, ⟨admits_tool _, rfl⟩,
    ⟨admits_interlock _, rfl, rfl, rfl⟩,
    fun b => by cases b <;> exact ⟨⟨by decide, by decide, rfl⟩, ⟨by decide, by decide, rfl⟩, rfl, rfl⟩,
    ⟨admits_interlock _, rfl, by decide⟩, admits_tool _⟩

theorem witness_SourceRequests_refusals :
    (∀ args, Admitted (tool args) active ∧ Admitted (interlock args) active) ∧
    ((0 : Byte) = 0 ∧ 16 < (17 : Byte).toNat ∧ 1 < (2 : Byte).toNat) ∧
    (isSpecial .pressureDevA = false ∧ 15 < (16 : Byte).toNat ∧
      ∀ b ∈ [(0 : Byte), 4, 5], ∀ a : Action, a ≠ .reset → b ≠ BitVec.ofNat 8 (actionCode a)) ∧
    (isSpecial .portDLoss = true ∧ ∀ b ∈ [(0 : Byte), 1, 2, 5],
      b ≠ BitVec.ofNat 8 (actionCode .hold) ∧ b ≠ BitVec.ofNat 8 (actionCode .reset)) ∧
    ((0 : Byte) ≠ 1 ∧ (0 : Byte) ≠ 2 ∧ (3 : Byte) ≠ 1 ∧ (3 : Byte) ≠ 2) := by
  refine ⟨fun args => ⟨admits_tool args, admits_interlock args⟩, by decide, ⟨rfl, by decide, ?_⟩, by decide, by decide⟩
  intro b hb a
  simp only [List.mem_cons, List.not_mem_nil, or_false] at hb
  rcases hb with rfl | rfl | rfl <;> cases a <;> decide

theorem witness_LevelRequests :
    Admitted (tool [15]) active ∧ Admitted (tool [16]) active ∧ Admitted (interlock [0]) active ∧ active.cu.stack = [] ∧
      (let s := { active with cu := { active.cu with level := 13, stack := [0, 4] } }
       Admitted (tool []) s ∧ s.cu.stack = [0] ++ [4]) :=
  ⟨admits_tool _, admits_tool _, admits_interlock _, rfl, ⟨by decide, by decide, rfl⟩, rfl⟩

/-- Station hold with head B waiting for entry 0, and L at 13. -/
def waiting : State :=
  { onHold with
    arb := { onHold.arb with waiting := [(.b, 0)] }
    cu := { onHold.cu with level := 13 }
    seqs := onHold.seqs.set .b { onHold.seqs.b with state := .waitPad, position := some 1 } }

theorem witness_HoldRequests :
    (Admitted (tool []) waiting ∧ (tool []).origin = 0 ∧ 10 < waiting.cu.level) ∧
    (Admitted (interlock []) waiting ∧ waiting.arb.waiting = [(.b, 0)] ∧ (waiting.seq .b).state = .waitPad ∧
      waiting.currentStep .b ≠ none) ∧
    (Admitted (tool []) active ∧ active.cu.level ≤ 10 ∧ active.arb.hold = false) ∧
    (Admitted (tool []) onHold ∧ onHold.arb.hold = true ∧ onHold.arb.waiting = []) ∧
    ({ onHold with arb := { onHold.arb with waiting := [(.a, 0)] } }.arb.waiting = [(.a, 0)] ∧
      (onHold.seq .a).state ≠ .waitPad) ∧
    (Admitted (interlock []) (headA .polishing 1 active) ∧ headWorking (headA .polishing 1 active) .a = true ∧
      headWorking active .b = false) :=
  ⟨⟨⟨by decide, by decide, rfl⟩, rfl, by decide⟩, ⟨⟨by decide, by decide, rfl⟩, rfl, rfl, by decide⟩,
    ⟨admits_tool _, by decide, rfl⟩, ⟨⟨by decide, by decide, rfl⟩, rfl, rfl⟩, ⟨rfl, by decide⟩,
    ⟨by decide, by decide, rfl⟩, by decide, by decide⟩

/-- Station hold with both heads waiting, A for entry 0 and B for an entry. -/
def bothWaiting (e : Nat) : State :=
  { onHold with
    arb := { onHold.arb with waiting := [(.a, 0), (.b, e)] }
    seqs := ⟨{ onHold.seqs.a with state := .waitPad, position := some 2 },
             { onHold.seqs.b with state := .waitPad, position := some 1 }⟩ }

theorem witness_HoldRequests_two : ∀ e ∈ [0, 1],
    isRunning (bothWaiting e) = true ∧ takesAtOnce (bothWaiting e) = true ∧ (bothWaiting e).arb.hold = true ∧
    (bothWaiting e).arb.waiting = [(.a, 0), (Head.other .a, e)] ∧ ((bothWaiting e).seq .a).state = .waitPad ∧
    ((bothWaiting e).seq .b).state = .waitPad ∧
    (bothWaiting e).currentStep .a = some { plainStep with pad := some 0 } ∧
    (bothWaiting e).currentStep .b = some { plainStep with pad := some 0 } := by decide

/-- R79, step 4: the second waiting head joins the grant of the same entry, and waits on for another. -/
theorem test_release_two :
    (let t := after (.releaseHold (interlock [])) (bothWaiting 0)
     t.arb.service = some ⟨0, ⟨true, true⟩, 1000⟩ ∧ t.arb.waiting = [] ∧ (t.seq .b).timer = .running 6000 ∧
      t.dose.current = some (entryDose (bothWaiting 0) 0 2)) ∧
    (let t := after (.releaseHold (interlock [])) (bothWaiting 1)
     t.arb.service = some ⟨0, ⟨true, false⟩, 1000⟩ ∧ t.arb.waiting = [(.b, 1)] ∧ (t.seq .a).timer = .running 6000 ∧
      t.seq .b = (bothWaiting 1).seq .b ∧ t.dose.current = some (entryDose (bothWaiting 1) 0 1)) := by decide +kernel

def guarded : State := { active with store := { active.store with protect := ⟨true, true⟩ } }

theorem witness_StoreWritesAndReloads :
    wholeWalk stageArgs (1 :: contentBytes (.sensorCal film)) = some (.sensorCal film) ∧
    wholeWalk stageArgs (2 :: contentBytes (.channelCal (PerFn.fill (-2000)))) = some (.channelCal (PerFn.fill (-2000))) ∧
    wholeWalk stageArgs (2 :: contentBytes (.channelCal (PerFn.fill 2001))) = some (.channelCal (PerFn.fill 2001)) ∧
    wholeWalk stageArgs (3 :: contentBytes (.wear noWear)) = some (.wear noWear) ∧
    wholeWalk stageArgs [4, 1, 0] = some (.protect 1 0) ∧ wholeWalk stageArgs [4, 1, 2] = some (.protect 1 2) ∧
    wholeWalk stageArgs (1 :: contentBytes (.sensorCal film.reverse)) = some (.sensorCal film.reverse) ∧
    guarded.store.protect.sensor = true ∧ active.store.protect.sensor = false ∧ active.store.protect.channel = false := by
  decide +kernel

theorem witness_StoreWritesAndReloads_commit :
    Admitted (tool [1]) (staged (.sensorCal film) none) ∧ active.store.staged = none ∧
      (staged (.sensorCal film) none).store.staged = some ⟨.sensorCal film, .tool⟩ ∧
      (staged (.sensorCal film) (some ⟨.wear noWear, .internal⟩)).store.engine = some ⟨.wear noWear, .internal⟩ ∧
      Admitted (tool [4]) active ∧ Admitted (tool [0]) active ∧ Admitted (tool [5]) active ∧ anyHeadWorking active = false ∧ active.store.engine = none ∧
      anyHeadWorking (headA .hold 1 active) = true ∧ isRunning active = true :=
  ⟨⟨by decide, by decide, rfl⟩, rfl, rfl, rfl, admits_tool _, admits_tool _, admits_tool _, by decide, rfl, by decide,
    by decide⟩

theorem witness_WhatIsSentIsReadBack :
    limitsOk limits = true ∧ film.length = 16 ∧ (∀ p ∈ film, p.raw ≤ 65535 ∧ p.thick ≤ 200000) ∧
      (∀ f ∈ Fn.all, -2000 ≤ PerFn.get (PerFn.fill (2000 : Int)) f ∧ PerFn.get (PerFn.fill (2000 : Int)) f ≤ 2000) ∧
      WearOk ⟨4000000000, 0, 65535, 0, 4294967295⟩ :=
  ⟨by decide, by decide, by decide, by decide, by constructor <;> decide⟩

theorem witness_StationResetClearsTheStation :
    (Admitted (tool []) waiting ∧ 10 < waiting.cu.level) ∧ (Admitted (interlock []) waiting ∧ (interlock []).origin = 62) ∧
      (let s := { active with portD := { active.portD with link := .online } }
       Admitted (tool []) s ∧ s.cu.level ≤ 10 ∧ s.portD.link = .online ∧ padIsWorn s = false ∧ diskIsWorn s = false) :=
  ⟨⟨⟨by decide, by decide, rfl⟩, by decide⟩, ⟨⟨by decide, by decide, rfl⟩, rfl⟩, ⟨by decide, by decide, rfl⟩, by decide,
    rfl, by decide, by decide⟩

/-- Hardware reset released, the store load running. -/
def loading : State := after (.resetRelease 5 false) State.reset

theorem witness_HardwareResetToRunning :
    State.reset.base.phase = .asserted ∧ loading.base.phase = .loading ∧ loading.mgmt = State.reset.mgmt ∧
      loading.cu = State.reset.cu ∧ loading.arb = State.reset.arb ∧ loading.seqs = State.reset.seqs := by decide

theorem loading_steps : step loading = .next (tick loading) := rfl

theorem witness_StepKeepsQueuesAndHistories :
    QueuesBounded loading ∧ (∀ h, HistoryOrdered (loading.sampler h)) ∧ step loading = .next (tick loading) :=
  ⟨by constructor <;> decide, fun h => by cases h <;> constructor <;> decide, rfl⟩

theorem witness_StepKeepsConditionRanges :
    SettingsOk loading.cu ∧ LevelsOk loading.cu ∧ step loading = .next (tick loading) :=
  ⟨{ low := fun k => by cases k <;> decide, high := fun k => by cases k <;> decide, supervision := rfl, portD := rfl
     reset := fun k => by cases k <;> decide },
   by constructor <;> decide, rfl⟩

theorem loading_timers (h : Head) : TimersKept (loading.seq h) where
  running d e := by cases h <;> cases e
  frozen d e := by cases h <;> cases e
  expired e := by cases h <;> cases e
  gap d e := by cases h <;> cases e
  interval c d e _ := by cases h <;> cases e

theorem witness_StepKeepsModeAndTimers : StationKept loading ∧ step loading = .next (tick loading) :=
  ⟨{ mode :=
      { held := fun _ => rfl, limits := fun e => by cases e
        slots := fun _ f => (by decide : ∀ f ∈ Fn.all, loading.slots.get f = none) f (Fn.mem_all f)
        heads := fun _ => by decide, timer := fun _ => rfl, loss := fun _ => rfl
        inBand := fun _ f =>
          (by decide : ∀ f ∈ Fn.all, (loading.fn f).dev = .inBand ∧ (loading.fn f).echo = 0) f (Fn.mem_all f) }
     a := loading_timers .a, b := loading_timers .b }, rfl⟩

theorem witness_StepKeepsTheStore : StoreKept loading ∧ step loading = .next (tick loading) :=
  ⟨{ live := by constructor <;> decide, record := fun _ e => (by cases e), engine := fun _ _ e => (by cases e)
     padRem := by decide, diskRem := by decide, pending := fun e => (by cases e), staged := fun _ e => (by cases e) }, rfl⟩

theorem loading_program (h : Head) : ProgramKept loading h where
  loaded p e := by cases h <;> cases e
  position e := by cases h <;> cases e

theorem witness_StepKeepsThePad : PadKept loading ∧ step loading = .next (tick loading) :=
  ⟨{ programA := loading_program .a, programB := loading_program .b
     holders := fun _ _ e => (by cases e)
     other := fun h e _ => by cases h <;> rcases e with e | e <;> cases e
     held := fun _ e => (by cases e), hold := fun e => (by cases e)
     waiters := fun h _ => ⟨fun m => (by cases m), fun e => by cases h <;> cases e.1⟩
     waits := fun h e => by cases h <;> cases e
     once := by decide, behind := fun _ _ m => (by cases m), running := fun _ e => (by cases e) }, rfl⟩

end Sys2Proof.Tests
end

/-! ## The step of a part for which no command waits (chapter 00, logs 2 and 3) -/

namespace Sys2Proof.Machine

/-- A free choice among things names one of them. -/
theorem pickIndex_lt {len : Nat} (n : Nat) (h : 0 < len) : pickIndex n len < len := by
  unfold pickIndex
  split
  case isTrue => exact h
  case isFalse => exact Nat.mod_lt _ h

theorem step_of_pending_nil {s : State} (h : s.pending = []) : step s = idleStep s := by
  simp only [step, h]

theorem idleStep_of_no_arrival {s : State} (h : ownArrivals s = []) : idleStep s = .next (tick s) := by
  simp only [idleStep, h, List.getElem?_nil]

/-- The arrival an idle part takes is the one its free choice picks. -/
theorem idleStep_of_lt {s : State} (h : pickIndex s.choice (ownArrivals s).length < (ownArrivals s).length) :
    idleStep s = takeArrival (ownArrivals s)[pickIndex s.choice (ownArrivals s).length]
      (s.choicesTaken ((ownArrivals s).length - 1)) := by
  simp only [idleStep, List.getElem?_eq_getElem h]

/-- Settles O3: the choice always names an arrival when there is one, so time passes only when there is none. -/
theorem idlePartActsByItself : Obligations.IdlePartActsByItself := by
  intro s idle
  rw [step_of_pending_nil idle]
  constructor
  · exact idleStep_of_no_arrival
  · intro possible
    have picked := pickIndex_lt s.choice (List.length_pos_iff.mpr possible)
    exact ⟨_, List.getElem_mem picked, idleStep_of_lt picked⟩

end Sys2Proof.Machine


/-! ## Requests that name a head (R16 to R18, R21) -/

namespace Sys2Proof.Machine

theorem eq_headCode_of_headOfCode {n : Nat} {k : Head} (e : headOfCode n = some k) : n = headCode k := by
  unfold headOfCode at e
  split at e <;> cases e <;> rfl

/-- A byte that is neither head's code names no head (R195). -/
theorem headOfCode_of_ne {b : Byte} {h : Head} (same : b ≠ BitVec.ofNat 8 (headCode h))
    (other : b ≠ BitVec.ofNat 8 (headCode h.other)) : headOfCode b.toNat = none := by
  refine Option.eq_none_iff_forall_ne_some.mpr fun k named => ?_
  have code : b = BitVec.ofNat 8 (headCode k) :=
    BitVec.eq_of_toNat_eq (by rw [eq_headCode_of_headOfCode named, byte_headCode])
  rcases Head.eq_or_other h k with rfl | rfl
  · exact same code
  · exact other code

/-- A request whose owning rule is `headRequest`, for an argument that is no head. -/
theorem headRequest_invalid {r : Request} {s : State} {b : Byte} (code : Nat) (accepts : HeadState → Bool)
    (effect : Head → State → State) (adm : Admitted r s) (args : r.args = [b]) (noHead : headOfCode b.toNat = none) :
    (.next (request code (serveRequest byte fun _ => headRequest accepts effect) r s) : Result) =
      completes r .invalid [] (served r s) :=
  request_refused code adm (by rw [args]; exact wholeWalk_byte b) (by simp only [headRequest, noHead])

theorem wholeWalk_of_namesHead {r : Request} {h : Head} (names : namesHead r h) :
    wholeWalk byte r.args = some (headCode h) := by
  rw [show r.args = _ from names, wholeWalk_byte, byte_headCode]

/-- A request whose owning rule is `headRequest`, for a head in a state that it does not accept. -/
theorem headRequest_state {r : Request} {s : State} {h : Head} (code : Nat) {accepts : HeadState → Bool}
    (effect : Head → State → State) (adm : Admitted r s) (names : namesHead r h)
    (refuses : accepts (s.seq h).state = false) :
    (.next (request code (serveRequest byte fun _ => headRequest accepts effect) r s) : Result) =
      completes r .state [] (served r s) :=
  request_refused code adm (wholeWalk_of_namesHead names) (by simp [headRequest, refuses])

/-- A request whose owning rule is `headRequest`, for a head in a state that it accepts. -/
theorem headRequest_done {r : Request} {s : State} {h : Head} (code : Nat) {accepts : HeadState → Bool}
    {effect : Head → State → State} (adm : Admitted r s) (names : namesHead r h)
    (accepted : accepts (s.seq h).state = true) (plain : (effect h (served r s)).mgmt.resetTaken = false) :
    (.next (request code (serveRequest byte fun _ => headRequest accepts effect) r s) : Result) =
      completes r .done [] (effect h (served r s)) :=
  request_completes code adm (wholeWalk_of_namesHead names) (by simp [headRequest, accepted, doneAnswer]) plain

/-! ## Pause and resume of a head (R12, R13, R16, R17, R25) -/

@[simp] theorem served_currentStep (r : Request) (s : State) (h : Head) :
    (served r s).currentStep h = s.currentStep h :=
  served_field (fun t => t.currentStep h) (fun _ _ _ => rfl) r s

/-- A step is watched when it has a control or an endpoint section (R13). -/
theorem StepRecord.watched_iff (st : StepRecord) : st.watched = true ↔ st.control ≠ none ∨ st.endpoint ≠ none := by
  simp [StepRecord.watched, Option.isSome_iff_ne_none]

theorem freshGap_eq (s : State) (st : StepRecord) :
    freshGap s st = if st.control ≠ none ∨ st.endpoint ≠ none then
      some (s.base.time + BitVec.ofNat 32 s.lim.sampleGapTimeout) else none := by
  simp only [freshGap, StepRecord.watched_iff, deadlineAfter]

/-- The polishing time with the open interval's length written out (R25, R27). -/
theorem polishingTime_eq (now : Time) (c : InProgress) :
    polishingTime now c = c.time + (match c.interval with | some t => (now - t).toNat | none => 0) := by
  unfold polishingTime
  cases c.interval <;> rfl

/-- A pause of the state an owning rule finds reads the time, the timers and the interval from before. -/
theorem pauseHead_served (r : Request) (s : State) (h : Head) :
    pauseHead h (served r s) = (served r s).setSeq h { closeInterval s.base.time (s.seq h) with
      state := .paused, timer := freezeTimer s.base.time (s.seq h).timer, gap := none } := by
  simp only [pauseHead, served_base, served_seq, closeInterval]

/-- A resumption of the state an owning rule finds, in a step that the program still names. -/
theorem resumeHead_served (r : Request) {s : State} {h : Head} {st : StepRecord} (step : s.currentStep h = some st) :
    resumeHead h (served r s) = (served r s).setSeq h { s.seq h with
      state := .polishing
      timer := thawTimer s.base.time (s.seq h).timer
      gap := freshGap s st
      current := (s.seq h).current.map fun c => { c with interval := some s.base.time } } := by
  simp only [resumeHead, served_seq, served_base, served_currentStep, step, Option.bind_some, freshGap_eq, served_lim]

/-- Settles O34: both requests are `headRequest`s, and their effects write the named head's sequencer alone. -/
theorem pauseFreezesAndResumeGoesOn : Obligations.PauseFreezesAndResumeGoesOn := by
  intro r s h adm
  refine ⟨?invalid, ?pause, ?pauseRefused, ?resume, ?resumeRefused⟩
  case invalid =>
    intro b args same other
    have noHead := headOfCode_of_ne same other
    exact ⟨headRequest_invalid 15 _ _ adm args noHead, headRequest_invalid 16 _ _ adm args noHead⟩
  case pause =>
    intro names polishing
    have done := headRequest_done (accepts := HeadState.isPolishing) (effect := pauseHead) 15 adm names
      (decide_eq_true polishing) (served_resetTaken r s)
    simp only [pauseHead_served, closeInterval, polishingTime_eq] at done
    exact done
  case pauseRefused =>
    intro names notPolishing
    exact headRequest_state 15 pauseHead adm names (decide_eq_false notPolishing)
  case resume =>
    intro st names step paused
    have done := headRequest_done (accepts := HeadState.isPaused) (effect := resumeHead) 16 adm names
      (decide_eq_true paused) (served_resetTaken r s)
    rw [resumeHead_served r step, freshGap_eq] at done
    exact done
  case resumeRefused =>
    intro names notPaused
    exact headRequest_state 16 resumeHead adm names (decide_eq_false notPaused)

end Sys2Proof.Machine


/-! ## Conversion of a raw value through the calibration points (R35) -/

namespace Sys2Proof.Machine

/-- A result within the thickness range passes the final clamp of R35 unchanged. -/
theorem toNat_clampInt_thickness {t : Int} (nonneg : 0 ≤ t) (le : t ≤ 200000) :
    ((clampInt 0 200000 t).toNat : Int) = t := by
  rw [clampInt, if_neg (by omega), if_neg (by omega), Int.toNat_of_nonneg nonneg]

/-- The share of a nonnegative rise `c` at a part `d` of the width `w`, truncated, is at most the rise. -/
theorem tdiv_share_mem_Icc {d w c : Int} (hd : 0 ≤ d) (dw : d < w) (hc : 0 ≤ c) :
    Int.tdiv (d * c) w ∈ Set.Icc 0 c := by
  have prod := Int.mul_nonneg hd hc
  rw [Int.tdiv_eq_ediv_of_nonneg prod]
  refine ⟨Int.ediv_nonneg prod (hd.trans dw.le), ?_⟩
  have width : 0 < w := hd.trans_lt dw
  calc d * c / w ≤ w * c / w := Int.ediv_le_ediv width (Int.mul_le_mul_of_nonneg_right dw.le hc)
    _ = c := Int.mul_ediv_cancel_left c width.ne'

/-- The third case of R35 between two neighbouring points, as a value of its own. -/
def interpolation (p q : CalPoint) (s : Nat) : Int :=
  p.thick + Int.tdiv (((s : Int) - p.raw) * ((q.thick : Int) - p.thick)) ((q.raw : Int) - p.raw)

/-- At its lower point the interpolation is that point's thickness. -/
@[simp] theorem interpolation_lower (p q : CalPoint) : interpolation p q p.raw = p.thick := by
  simp [interpolation]

/-- Truncation goes toward the lower point's thickness, whether the thickness rises or falls. -/
theorem interpolation_between {p q : CalPoint} {s : Nat} (lower : p.raw ≤ s) (upper : s < q.raw) :
    min (p.thick : Int) q.thick ≤ interpolation p q s ∧ interpolation p q s ≤ max (p.thick : Int) q.thick := by
  have part : (0 : Int) ≤ (s : Int) - p.raw := by omega
  have inWidth : (s : Int) - p.raw < (q.raw : Int) - p.raw := by omega
  rcases le_total p.thick q.thick with rises | falls
  · obtain ⟨low, high⟩ := tdiv_share_mem_Icc part inWidth (c := (q.thick : Int) - p.thick) (by omega)
    simp only [interpolation]
    omega
  · obtain ⟨low, high⟩ := tdiv_share_mem_Icc part inWidth (c := (p.thick : Int) - q.thick) (by omega)
    rw [← neg_sub (q.thick : Int), Int.mul_neg, Int.neg_tdiv] at low high
    simp only [interpolation]
    omega

theorem segmentThickness_cons (p q : CalPoint) (rest : List CalPoint) (s : Nat) :
    segmentThickness (p :: q :: rest) s =
      if p.raw ≤ s ∧ s < q.raw then interpolation p q s else segmentThickness (q :: rest) s := rfl

theorem convertRaw_eq {points : List CalPoint} {first last : CalPoint} (hf : points.head? = some first)
    (hl : points.getLast? = some last) (s : Nat) :
    convertRaw points s = (clampInt 0 200000 (if s ≤ first.raw then (first.thick : Int)
      else if last.raw ≤ s then (last.thick : Int) else segmentThickness points s)).toNat := by
  simp only [convertRaw, hf, hl]

section Calibration

variable {points : List CalPoint} (rise : (points.map CalPoint.raw).Pairwise (· < ·))
  (bound : ∀ p ∈ points, p.thick ≤ 200000)

include rise

theorem raw_lt_of_index_lt {i j : Nat} {p q : CalPoint} (hp : points[i]? = some p) (hq : points[j]? = some q)
    (lt : i < j) : p.raw < q.raw := by
  obtain ⟨hi, rfl⟩ := List.getElem?_eq_some_iff.mp hp
  obtain ⟨hj, rfl⟩ := List.getElem?_eq_some_iff.mp hq
  exact List.pairwise_iff_getElem.mp (List.pairwise_map.mp rise) i j hi hj lt

/-- Two points in the order of their places whose raw values are not in that order strictly are one point. -/
theorem eq_of_index_le_of_raw_le {i j : Nat} {p q : CalPoint} (hp : points[i]? = some p) (hq : points[j]? = some q)
    (le : i ≤ j) (raws : q.raw ≤ p.raw) : p = q := by
  rcases Nat.eq_or_lt_of_le le with rfl | lt
  · exact Option.some.inj (hp.symm.trans hq)
  · exact absurd (raw_lt_of_index_lt rise hp hq lt) raws.not_gt

/-- The one segment that holds a raw value is the one R35 takes. -/
theorem segmentThickness_of_segment {k s : Nat} {p q : CalPoint} (hp : points[k]? = some p)
    (hq : points[k + 1]? = some q) (lower : p.raw ≤ s) (upper : s < q.raw) :
    segmentThickness points s = interpolation p q s := by
  induction points generalizing k with
  | nil => simp at hp
  | cons a tail ih =>
    cases tail with
    | nil => simp at hq
    | cons b rest =>
      rw [segmentThickness_cons]
      cases k with
      | zero =>
        cases hp
        cases hq
        exact if_pos ⟨lower, upper⟩
      | succ k =>
        have past : b.raw ≤ s := by
          by_contra below
          have same : b = p := eq_of_index_le_of_raw_le rise (i := 1) rfl hp (by omega) (by omega)
          exact below (same ▸ lower)
        rw [if_neg fun inFirst => inFirst.2.not_ge past]
        exact ih (List.Pairwise.of_cons rise) hp hq

include bound

omit rise in
/-- First case of R35. -/
theorem convertRaw_of_le_first {s : Nat} {first : CalPoint} (hf : points.head? = some first) (le : s ≤ first.raw) :
    convertRaw points s = first.thick := by
  have thick := bound first (List.mem_of_head? hf)
  have nonempty : points ≠ [] := by rintro rfl; cases hf
  rw [convertRaw_eq hf (List.getLast?_eq_some_getLast nonempty), if_pos le]
  exact Int.ofNat.inj (toNat_clampInt_thickness (by omega) (by omega))

/-- Second case of R35; where the first case takes the value too, the first point is the last. -/
theorem convertRaw_of_last_le {s : Nat} {last : CalPoint} (hl : points.getLast? = some last) (le : last.raw ≤ s) :
    convertRaw points s = last.thick := by
  have thick := bound last (List.mem_of_getLast? hl)
  have nonempty : points ≠ [] := by rintro rfl; cases hl
  have hf := List.head?_eq_some_head nonempty
  by_cases first : s ≤ (points.head nonempty).raw
  · have same := eq_of_index_le_of_raw_le rise (List.head?_eq_getElem? ▸ hf) (List.getLast?_eq_getElem? ▸ hl)
      (Nat.zero_le _) (le.trans first)
    rw [convertRaw_of_le_first bound hf first, same]
  · rw [convertRaw_eq hf hl, if_neg first, if_pos le]
    exact Int.ofNat.inj (toNat_clampInt_thickness (by omega) (by omega))

/-- Third case of R35; where the first case takes the value too, it stands at the lower point of the first segment. -/
theorem convertRaw_of_segment {k s : Nat} {p q : CalPoint} (hp : points[k]? = some p) (hq : points[k + 1]? = some q)
    (lower : p.raw ≤ s) (upper : s < q.raw) : (convertRaw points s : Int) = interpolation p q s := by
  have nonempty : points ≠ [] := by rintro rfl; cases hp
  have hf := List.head?_eq_some_head nonempty
  have hl := List.getLast?_eq_some_getLast nonempty
  by_cases first : s ≤ (points.head nonempty).raw
  · have same := eq_of_index_le_of_raw_le rise (List.head?_eq_getElem? ▸ hf) hp (Nat.zero_le _) (lower.trans first)
    have atPoint : s = p.raw := Nat.le_antisymm (same ▸ first) lower
    rw [convertRaw_of_le_first bound hf first, same, atPoint, interpolation_lower]
  · have notLast : ¬ (points.getLast nonempty).raw ≤ s := fun past => by
      have same := eq_of_index_le_of_raw_le rise hq (List.getLast?_eq_getElem? ▸ hl)
        (Nat.le_sub_one_of_lt (List.getElem?_eq_some_iff.mp hq).1) (past.trans upper.le)
      exact (same ▸ upper).not_ge past
    have thickP := bound p (List.mem_of_getElem? hp)
    have thickQ := bound q (List.mem_of_getElem? hq)
    obtain ⟨low, high⟩ := interpolation_between lower upper
    rw [convertRaw_eq hf hl, if_neg first, if_neg notLast, segmentThickness_of_segment rise hp hq lower upper]
    exact toNat_clampInt_thickness (by omega) (by omega)

/-- A point converts to its own thickness: by its segment, or as the last point. -/
theorem convertRaw_point {k : Nat} {p : CalPoint} (hp : points[k]? = some p) : convertRaw points p.raw = p.thick := by
  cases hq : points[k + 1]? with
  | some q =>
    have inSegment := convertRaw_of_segment rise bound hp hq le_rfl (raw_lt_of_index_lt rise hp hq k.lt_succ_self)
    rw [interpolation_lower] at inSegment
    exact Int.ofNat.inj inSegment
  | none =>
    have isLast : k = points.length - 1 := by
      have := List.getElem?_eq_none_iff.mp hq
      have := (List.getElem?_eq_some_iff.mp hp).1
      omega
    exact convertRaw_of_last_le rise bound (by rw [List.getLast?_eq_getElem?, ← isLast, hp]) le_rfl

/-- The last sentence of R35: a converted thickness lies between those of the two points around the raw value. -/
theorem convertRaw_between {k s : Nat} {p q : CalPoint} (hp : points[k]? = some p) (hq : points[k + 1]? = some q)
    (lower : p.raw ≤ s) (upper : s ≤ q.raw) :
    min p.thick q.thick ≤ convertRaw points s ∧ convertRaw points s ≤ max p.thick q.thick := by
  rcases Nat.eq_or_lt_of_le upper with rfl | below
  · rw [convertRaw_point rise bound hq]
    exact ⟨min_le_right _ _, le_max_right _ _⟩
  · have value := convertRaw_of_segment rise bound hp hq lower below
    have between := interpolation_between lower below
    omega

end Calibration

/-- Settles O45: the three cases of R35 and what they give at and between the points. -/
theorem conversionFollowsThePoints : Obligations.ConversionFollowsThePoints := by
  intro points raw rise bound
  refine ⟨?point, ?first, ?last, ?segment, ?between⟩
  case point =>
    intro p mem
    obtain ⟨k, hp⟩ := List.getElem?_of_mem mem
    exact convertRaw_point rise bound hp
  case first =>
    rintro p rest rfl
    exact convertRaw_of_le_first bound rfl
  case last => exact fun p => convertRaw_of_last_le rise bound
  case segment => exact fun k p q => convertRaw_of_segment rise bound
  case between => exact fun k p q => convertRaw_between rise bound

end Sys2Proof.Machine


/-! ## The link state of a port (R122) -/

namespace Sys2Proof.Machine

section LinkState

variable {p : PortState}

/-- A port stays ONLINE through a discarded frame that leaves its streak below 4. -/
theorem portBad_of_online_of_lt (on : p.link = .online) (below : p.streak + 1 < 4) :
    portBad p = { p with streak := p.streak + 1 } := by
  simp only [portBad, on, if_neg below.not_ge]

/-- The fourth discarded frame in a row takes a port OFFLINE, however far apart the four are. -/
theorem portBad_of_online_of_fourth (on : p.link = .online) (fourth : p.streak + 1 = 4) :
    portBad p = { p with streak := 4, link := .offline 0 } := by
  simp only [portBad, on, fourth, if_pos le_rfl]

/-- A discarded frame between the two good frames of a recovery starts the count again. -/
theorem portBad_of_offline {n : Nat} (off : p.link = .offline n) :
    portBad p = { p with streak := min (p.streak + 1) 4, link := .offline 0 } := by
  simp only [portBad, off]

theorem portGood_of_online (on : p.link = .online) : portGood p = { p with streak := 0 } := by
  simp only [portGood, on]

/-- The first good frame of a recovery is counted. -/
theorem portGood_of_offline_zero (off : p.link = .offline 0) :
    portGood p = { p with streak := 0, link := .offline 1 } := by
  simp only [portGood, off, if_pos]

/-- The second consecutive good frame brings a port back ONLINE. -/
theorem portGood_of_offline_one (off : p.link = .offline 1) :
    portGood p = { p with streak := 0, link := .online } := by
  simp only [portGood, off, if_neg one_ne_zero]

theorem portLoss_eq (p : PortState) : portLoss p = { p with link := .offline 0 } := rfl

end LinkState

/-- Settles O24, by the rows and columns of the table of R122. -/
theorem linkStateTable : Obligations.LinkStateTable := by
  intro p
  refine ⟨?onlineBad, ?onlineFourth, ?onlineGood, ?loss, ?offlineBad, ?offlineFirst, ?offlineSecond⟩
  case onlineBad => exact portBad_of_online_of_lt
  case onlineFourth => exact portBad_of_online_of_fourth
  case onlineGood => exact portGood_of_online
  case loss => exact portLoss_eq p
  case offlineBad => exact fun _ => portBad_of_offline
  case offlineFirst => exact portGood_of_offline_zero
  case offlineSecond => exact portGood_of_offline_one

end Sys2Proof.Machine


/-! ## Requests whose arguments do not fit their layout (R161 step 4) -/

namespace Sys2Proof.Machine

/-- Arguments that the layout does not cover are answered INVALID, with no effect but the supervision restart. -/
theorem request_of_walk_none {α : Type} {shape : Walk α} {owner : Request → α → State → State × Answer} {r : Request}
    {s : State} (code : Nat) (adm : Admitted r s) (unfit : wholeWalk shape r.args = none) :
    (.next (request code (serveRequest shape owner) r s) : Result) = completes r .invalid [] (served r s) := by
  have ⟨_, _, origin⟩ := adm
  have refused : serveRequest shape owner r (beginRequest s) = refuse (served r s) .invalid := by
    simp only [serveRequest, origin, if_true, unfit, served]
  rw [request_of_admitted code _ adm, refused, refuse, respond_plain (served_resetTaken r s)]
  rfl

/-- The layout of a request without arguments covers no byte. -/
theorem wholeWalk_noArgs_of_ne_nil {bs : List Byte} (given : bs ≠ []) : wholeWalk noArgs bs = none := by
  cases bs with
  | nil => exact absurd rfl given
  | cons b rest => rfl

section NoArguments

variable {r : Request} {s : State} {owner : Request → Unit → State → State × Answer} (code : Nat) (adm : Admitted r s)

include adm

/-- A request without arguments that comes with some. -/
theorem noArgs_request_invalid (args : r.args ≠ []) :
    (.next (request code (serveRequest noArgs owner) r s) : Result) = completes r .invalid [] (served r s) :=
  request_of_walk_none code adm (wholeWalk_noArgs_of_ne_nil args)

/-- A request without arguments whose owning rule reads the state and leaves it. -/
theorem noArgs_request_read {results : List Byte} (args : r.args = [])
    (reads : owner r () (served r s) = (served r s, doneWith results)) :
    (.next (request code (serveRequest noArgs owner) r s) : Result) = completes r .done results (served r s) :=
  request_completes code adm (by rw [args, wholeWalk_noArgs]) reads (served_resetTaken r s)

end NoArguments

end Sys2Proof.Machine


/-! ## What supervision does to the condition unit (R141, R175, R176) -/

namespace Sys2Proof.Machine

@[simp] theorem PerSource.set_get {α : Type} (t : PerSource α) (k : SourceId) : t.set k (t.get k) = t := by
  cases k <;> rfl

@[simp] theorem State.setSource_source (s : State) (k : SourceId) : s.setSource k (s.source k) = s := by
  simp only [State.setSource, State.source, PerSource.set_get]

/-- A report that a presence is lost rewrites its source alone. -/
theorem losePresence_eq (k : SourceId) (s : State) :
    losePresence k s = s.setSource k (withoutPresence (s.source k)) := by
  unfold losePresence withoutPresence
  dsimp only
  split
  case isTrue => split <;> rfl
  case isFalse => exact (s.setSource_source k).symm

/-- The condition unit that an owning rule finds; the management unit is `served_mgmt`. -/
theorem served_cu (r : Request) (s : State) :
    (served r s).cu =
      if (r.origin = toolOrigin ∧ s.active = true) ∧ s.mgmt.supLoss = true then
        (s.setSource .supervisionLoss (withoutPresence (s.source .supervisionLoss))).cu
      else s.cu := by
  by_cases restarts : r.origin = toolOrigin ∧ s.active = true
  · have restarted : served r s = startSupervision (endSupervisionLoss (beginRequest s)) := if_pos restarts
    by_cases loss : s.mgmt.supLoss = true
    · have ended : endSupervisionLoss (beginRequest s) = losePresence .supervisionLoss _ := if_pos loss
      rw [if_pos ⟨restarts, loss⟩, restarted, ended, losePresence_eq]
      rfl
    · have kept : endSupervisionLoss (beginRequest s) = beginRequest s := if_neg loss
      rw [if_neg fun both => loss both.2, restarted, kept]
      rfl
  · have left : served r s = beginRequest s := if_neg restarts
    rw [if_neg fun both => restarts both.1, left]
    rfl

theorem served_source_of_ne (r : Request) (s : State) {k : SourceId} (other : k ≠ .supervisionLoss) :
    (served r s).source k = s.source k :=
  superviseRequest_source r.origin (beginRequest s) other

theorem served_cu_of_no_loss (r : Request) {s : State} (noLoss : s.mgmt.supLoss = false) :
    (served r s).cu = s.cu := by
  simp only [served_cu, noLoss, Bool.false_eq_true, and_false, if_false]

/-- A tool request in ACTIVE mode ends a presence of SUPERVISION_LOSS. -/
theorem served_source_of_loss {r : Request} {s : State} (tool : r.origin = toolOrigin) (active : s.active = true)
    (loss : s.mgmt.supLoss = true) :
    (served r s).source .supervisionLoss = withoutPresence (s.source .supervisionLoss) := by
  rw [State.source, served_cu, if_pos ⟨⟨tool, active⟩, loss⟩]
  exact s.source_setSource_same _ _

end Sys2Proof.Machine


/-! ## IDENTIFY and HEARTBEAT (R164, R165) -/

namespace Sys2Proof.Machine

theorem byte_rateCode (rate : LinkRate) :
    BitVec.ofNat 8 (rateCode rate) = if rate = .mbit10 then 10 else 25 := by
  cases rate <;> rfl

theorem byte_modeCode_eq (m : Mode) : BitVec.ofNat 8 (modeCode m) = if m = .active then 1 else 0 := by
  cases m <;> rfl

theorem yes_eq (b : Bool) : yes b = [if b then 1 else 0] := by
  cases b <;> rfl

theorem ownIdentify_eq (r : Request) (s : State) :
    ownIdentify r () s = (s, doneWith [16, 21, 0, 80, 1, 8, 0, 1, BitVec.ofNat 8 s.base.ownAddr,
      if s.base.rate = .mbit10 then 10 else 25, s.base.time.extractLsb' 24 8, s.base.time.extractLsb' 16 8,
      s.base.time.extractLsb' 8 8, s.base.time.extractLsb' 0 8]) := by
  rw [← byte_rateCode]
  rfl

theorem ownHeartbeat_eq (r : Request) (s : State) :
    ownHeartbeat r () s = (s, doneWith (word32 s.base.time ++ [if s.mgmt.mode = .active then 1 else 0,
      BitVec.ofNat 8 s.cu.level, if s.arb.hold then 1 else 0, BitVec.ofNat 8 s.mgmt.events.length,
      if s.mgmt.dropped then 1 else 0])) := by
  simp only [ownHeartbeat, u8, byte_modeCode_eq, yes_eq, List.append_assoc, List.cons_append, List.nil_append]

/-- Settles O10: the owning rule reads the time base, which supervision leaves as it was. -/
theorem identifyAnswersTheIdentity : Obligations.IdentifyAnswersTheIdentity := by
  intro r s adm
  refine ⟨noArgs_request_invalid 1 adm, fun args => noArgs_request_read 1 adm args ?_⟩
  rw [ownIdentify_eq, served_base]

/-- Settles O11: the owning rule leaves the state it finds, so the effect is that of supervision alone. -/
theorem heartbeatKeepsSupervision : Obligations.HeartbeatKeepsSupervision := by
  intro r s adm
  refine ⟨noArgs_request_invalid 2 adm, fun args =>
    ⟨served r s, noArgs_request_read 2 adm args ?answer, ?restart, ?left, served_level r s, served_stack r s, ?heads,
      ?pad, ?ports, ?functions, ?base, served_store r s⟩⟩
  case answer =>
    simp only [ownHeartbeat_eq, served_base, served_mode, served_level, served_arb, served_events, served_dropped]
  case restart =>
    intro tool mode
    have active : s.active = true := decide_eq_true mode
    refine ⟨?_, fun k => served_source_of_ne r s, served_cu_of_no_loss r, served_source_of_loss tool active⟩
    rw [served_mgmt, if_pos ⟨tool, active⟩, deadlineAfter]
  case left =>
    rintro (interlock | transparent)
    · exact served_of_interlock s (by omega)
    · exact served_of_transparent transparent
  case heads => exact ⟨served_seqs r s, served_steps r s, served_samplers r s, served_comps r s⟩
  case pad => exact ⟨served_arb r s, served_dose r s, served_cdr r s⟩
  case ports => exact ⟨served_portU r s, served_portD r s, served_fwd r s⟩
  case functions => exact ⟨served_fmap r s, served_slots r s⟩
  case base => exact ⟨served_base r s, served_pending r s, served_choice r s⟩

end Sys2Proof.Machine


/-! ## The parameter store (R187, R188, R189, R191) -/

namespace Sys2Proof.Machine

/-! Codes that name nothing, and flags from their codes. -/

theorem recordOfCode_of_nameless {b : Byte} (nameless : b = 0 ∨ 4 < b.toNat) : recordOfCode b.toNat = none := by
  rcases nameless with rfl | above
  · rfl
  · unfold recordOfCode
    split
    case h_5 => rfl
    all_goals omega

theorem yesOfCode_of_le {n : Nat} (le : n ≤ 1) : yesOfCode n = some (decide (n = 1)) := by
  interval_cases n <;> rfl

theorem yesOfCode_of_lt {n : Nat} (lt : 1 < n) : yesOfCode n = none := by
  unfold yesOfCode
  split
  case h_3 => rfl
  all_goals omega

theorem protectOfCodes_of_le {a b : Nat} (ha : a ≤ 1) (hb : b ≤ 1) :
    protectOfCodes a b = some { sensor := decide (a = 1), channel := decide (b = 1) } := by
  simp only [protectOfCodes, yesOfCode_of_le ha, yesOfCode_of_le hb]

theorem protectOfCodes_of_not_le {a b : Nat} (bad : ¬(a ≤ 1 ∧ b ≤ 1)) : protectOfCodes a b = none := by
  rcases not_and_or.mp bad with ha | hb
  · simp only [protectOfCodes, yesOfCode_of_lt (Nat.lt_of_not_le ha)]
  · simp only [protectOfCodes, yesOfCode_of_lt (Nat.lt_of_not_le hb)]
    cases yesOfCode a <;> rfl

/-! The ranges of R183 that staged contents keep (R187, check 4). -/

/-- Raw values that rise from each point to the next rise over the whole list. -/
theorem rawsRise_iff (ps : List CalPoint) : rawsRise ps = true ↔ (ps.map CalPoint.raw).Pairwise (· < ·) := by
  rw [← List.isChain_iff_pairwise]
  induction ps with
  | nil => simp [rawsRise]
  | cons p tail ih =>
    cases tail with
    | nil => simp [rawsRise]
    | cons q rest =>
      rw [rawsRise, Bool.and_eq_true, ih, decide_eq_true_eq]
      exact List.isChain_cons_cons.symm

theorem pointsOk_iff (ps : List CalPoint) :
    pointsOk ps = true ↔ (∀ p ∈ ps, p.thick ≤ 200000) ∧ (ps.map CalPoint.raw).Pairwise (· < ·) := by
  simp [pointsOk, within, rawsRise_iff]

theorem offsetsOk_iff (os : PerFn Int) :
    offsetsOk os = true ↔ ∀ f, -2000 ≤ PerFn.get os f ∧ PerFn.get os f ≤ 2000 := by
  simp [offsetsOk, PerFn.toList, Fn.mem_all]

/-! STORE_STAGE (R187). -/

@[simp] theorem fromTool_eq_true_iff (r : Request) : fromTool r = true ↔ r.origin = 0 := decide_eq_true_iff

@[simp] theorem fromTool_eq_false_iff (r : Request) : fromTool r = false ↔ r.origin ≠ 0 := decide_eq_false_iff_not

/-- The bytes after a code that names no record are taken as they are (R187, check 1). -/
theorem wholeWalk_stageArgs_of_nameless {b : Byte} (nameless : b = 0 ∨ 4 < b.toNat) (rest : List Byte) :
    wholeWalk stageArgs (b :: rest) = some .unknown := by
  have walked : stageArgs (b :: rest) = some (.unknown, []) := by
    simp only [stageArgs, walkThen, byte, recordOfCode_of_nameless nameless]
  simp only [wholeWalk, walked]

/-- What a STORE_STAGE that passes leaves: the staging area holds these contents and the request's origin (R187). -/
def stagedBy (r : Request) (c : Contents) (s : State) : State :=
  { served r s with store := { s.store with
      staged := some { contents := c, origin := if r.origin = 0 then .tool else .interlock } } }

theorem stage_served (r : Request) (c : Contents) (s : State) :
    stage r c (served r s) = (stagedBy r c s, doneAnswer) := by
  simp only [stage, stagedBy, originWrite, fromTool_eq_true_iff, served_store, State.setStore]

section Stage

variable {r : Request} {s : State} {a : StagedArgs} (adm : Admitted r s) (args : wholeWalk stageArgs r.args = some a)

include adm args

theorem exec_storeStage_refused {o : OutcomeCode}
    (refused : ownStoreStage r a (served r s) = refuse (served r s) o) :
    exec (.storeStage r) s = completes r o [] (served r s) :=
  request_refused 30 adm args refused

/-- A request that passes replaces what the staging area held, and nothing else. -/
theorem exec_storeStage_staged {c : Contents} (passes : ownStoreStage r a (served r s) = stage r c (served r s)) :
    exec (.storeStage r) s = completes r .done [] (stagedBy r c s) :=
  request_completes 30 adm args (passes.trans (stage_served r c s)) (served_resetTaken r s)

/-- The checks that SENSOR_CAL and CHANNEL_CAL share: the protect flag, then the contents (R187, checks 3 and 4). -/
theorem exec_storeStage_checked {c : Contents} {guard ok : Bool}
    (owner : ownStoreStage r a (served r s) = if guard then refuse (served r s) .protected_
      else if ok then stage r c (served r s) else refuse (served r s) .invalid) :
    (guard = true → exec (.storeStage r) s = completes r .protected_ [] (served r s)) ∧
    (guard = false → ok = false → exec (.storeStage r) s = completes r .invalid [] (served r s)) ∧
    (guard = false → ok = true → exec (.storeStage r) s = completes r .done [] (stagedBy r c s)) := by
  refine ⟨?guarded, ?illFormed, ?passes⟩
  case guarded =>
    rintro rfl
    exact exec_storeStage_refused adm args owner
  case illFormed =>
    rintro rfl rfl
    exact exec_storeStage_refused adm args owner
  case passes =>
    rintro rfl rfl
    exact exec_storeStage_staged adm args owner

end Stage

theorem ownStoreStage_sensorCal (r : Request) (ps : List CalPoint) (s : State) :
    ownStoreStage r (.sensorCal ps) (served r s) =
      if s.store.protect.sensor then refuse (served r s) .protected_
      else if pointsOk ps then stage r (.sensorCal ps) (served r s) else refuse (served r s) .invalid := by
  simp only [ownStoreStage, served_store]

theorem ownStoreStage_channelCal (r : Request) (os : PerFn Int) (s : State) :
    ownStoreStage r (.channelCal os) (served r s) =
      if s.store.protect.channel then refuse (served r s) .protected_
      else if offsetsOk os then stage r (.channelCal os) (served r s) else refuse (served r s) .invalid := by
  simp only [ownStoreStage, served_store]

section StageRecords

variable {r : Request} {s : State} (adm : Admitted r s)

include adm

theorem exec_storeStage_wear {w : Wear} (args : wholeWalk stageArgs r.args = some (.wear w)) :
    exec (.storeStage r) s = completes r .origin [] (served r s) :=
  exec_storeStage_refused adm args rfl

theorem exec_storeStage_nameless {b : Byte} {rest : List Byte} (args : r.args = b :: rest)
    (nameless : b = 0 ∨ 4 < b.toNat) : exec (.storeStage r) s = completes r .invalid [] (served r s) :=
  exec_storeStage_refused adm (by rw [args, wholeWalk_stageArgs_of_nameless nameless]) rfl

variable {a b : Nat} (args : wholeWalk stageArgs r.args = some (.protect a b))

include args

theorem exec_storeStage_protect_tool (tool : r.origin = 0) :
    exec (.storeStage r) s = completes r .origin [] (served r s) :=
  exec_storeStage_refused adm args (if_pos ((fromTool_eq_true_iff r).mpr tool))

theorem exec_storeStage_protect_invalid (interlock : r.origin = 62) (bad : ¬(a ≤ 1 ∧ b ≤ 1)) :
    exec (.storeStage r) s = completes r .invalid [] (served r s) := by
  refine exec_storeStage_refused adm args ?_
  simp [ownStoreStage, interlock, protectOfCodes_of_not_le bad]

theorem exec_storeStage_protect_staged (interlock : r.origin = 62) (ha : a ≤ 1) (hb : b ≤ 1) :
    exec (.storeStage r) s = completes r .done [] { served r s with store := { s.store with
      staged := some { contents := .protect { sensor := decide (a = 1), channel := decide (b = 1) }
                       origin := .interlock } } } := by
  have staged := exec_storeStage_staged adm args
    (c := .protect { sensor := decide (a = 1), channel := decide (b = 1) })
    (by simp [ownStoreStage, interlock, protectOfCodes_of_le ha hb])
  rwa [stagedBy, if_neg (by omega)] at staged

end StageRecords

/-! STORE_COMMIT (R188). -/

theorem isProtected_iff (x : ParameterStore) (name : RecordName) :
    isProtected x name = true ↔
      (name = .sensorCal ∧ x.protect.sensor = true) ∨ (name = .channelCal ∧ x.protect.channel = true) := by
  cases name <;> simp [isProtected]

section Commit

variable {r : Request} {x : RecordName}

theorem ownStoreCommit_of_tool_protect (s : State) (tool : r.origin = 0) :
    ownStoreCommit r (recordCode .protect) s = refuse s .origin := by
  simp [ownStoreCommit, tool]

variable {s : State} (allowed : r.origin = 62 ∨ x ≠ .protect)

include allowed

/-- Check 2 passes: the request names another record than PROTECT, or is the interlock's. -/
theorem commit_origin_passes : (fromTool r && decide (x = .protect)) = false := by
  rcases allowed with interlock | other
  · simp [interlock]
  · simp [other]

theorem ownStoreCommit_of_not_staged (absent : ∀ w, s.store.staged = some w → w.contents.record ≠ x) :
    ownStoreCommit r (recordCode x) s = refuse s .sequence := by
  simp only [ownStoreCommit, recordOfCode_recordCode, commit_origin_passes allowed, Bool.false_eq_true, if_false]
  cases staged : s.store.staged with
  | none => rfl
  | some w => exact if_pos (absent w staged)

/-- The checks that are left when the staging area holds the named record. -/
theorem ownStoreCommit_of_staged {w : Write} (staged : s.store.staged = some w) (same : w.contents.record = x) :
    ownStoreCommit r (recordCode x) s =
      if s.store.engine.isSome then refuse s .busy
      else if isProtected s.store x then refuse s .protected_
      else (s.setStore { s.store with engine := some w, staged := none }, doneAnswer) := by
  simp [ownStoreCommit, commit_origin_passes allowed, staged, same]

end Commit

theorem ownStoreCommit_of_nameless {b : Byte} (r : Request) (s : State) (nameless : b = 0 ∨ 4 < b.toNat) :
    ownStoreCommit r b.toNat s = refuse s .invalid := by
  simp only [ownStoreCommit, recordOfCode_of_nameless nameless]

section CommitRequest

variable {r : Request} {s : State} {x : RecordName} (adm : Admitted r s)
  (args : r.args = [BitVec.ofNat 8 (recordCode x)])

include args in
theorem wholeWalk_of_recordCode : wholeWalk byte r.args = some (recordCode x) := by
  rw [args, wholeWalk_byte, byte_recordCode]

include adm

theorem exec_storeCommit_nameless {b : Byte} (args : r.args = [b]) (nameless : b = 0 ∨ 4 < b.toNat) :
    exec (.storeCommit r) s = completes r .invalid [] (served r s) :=
  request_refused 31 adm (by rw [args, wholeWalk_byte]) (ownStoreCommit_of_nameless r _ nameless)

include args

theorem exec_storeCommit_refused {o : OutcomeCode}
    (refused : ownStoreCommit r (recordCode x) (served r s) = refuse (served r s) o) :
    exec (.storeCommit r) s = completes r o [] (served r s) :=
  request_refused 31 adm (wholeWalk_of_recordCode args) refused

theorem exec_storeCommit_not_staged (allowed : r.origin = 62 ∨ x ≠ .protect)
    (absent : ∀ w, s.store.staged = some w → w.contents.record ≠ x) :
    exec (.storeCommit r) s = completes r .sequence [] (served r s) :=
  exec_storeCommit_refused adm args (ownStoreCommit_of_not_staged allowed (by rwa [served_store]))

variable (allowed : r.origin = 62 ∨ x ≠ .protect) {w : Write} (staged : s.store.staged = some w)
  (same : w.contents.record = x)

include allowed staged same

omit adm args in
/-- The owning rule on the state it finds, when the staging area holds the named record. -/
theorem ownStoreCommit_served_of_staged :
    ownStoreCommit r (recordCode x) (served r s) =
      if s.store.engine.isSome then refuse (served r s) .busy
      else if isProtected s.store x then refuse (served r s) .protected_
      else ({ served r s with store := { s.store with engine := some w, staged := none } }, doneAnswer) := by
  have held : (served r s).store.staged = some w := by rw [served_store, staged]
  rw [ownStoreCommit_of_staged allowed held same, served_store, State.setStore]

theorem exec_storeCommit_busy (programs : s.store.engine ≠ none) :
    exec (.storeCommit r) s = completes r .busy [] (served r s) := by
  refine exec_storeCommit_refused adm args ?_
  rw [ownStoreCommit_served_of_staged allowed staged same, if_pos (Option.isSome_iff_ne_none.mpr programs)]

theorem exec_storeCommit_protected (idle : s.store.engine = none) (guarded : isProtected s.store x = true) :
    exec (.storeCommit r) s = completes r .protected_ [] (served r s) := by
  refine exec_storeCommit_refused adm args ?_
  simp [ownStoreCommit_served_of_staged allowed staged same, idle, guarded]

/-- The staged record moves into the idle engine, with the origin of the request that staged it. -/
theorem exec_storeCommit_starts (idle : s.store.engine = none) (free : isProtected s.store x = false) :
    exec (.storeCommit r) s = completes r .done []
      { served r s with store := { s.store with engine := some w, staged := none } } :=
  request_completes 31 adm (wholeWalk_of_recordCode args)
    (by simp [ownStoreCommit_served_of_staged allowed staged same, idle, free, doneAnswer]) (served_resetTaken r s)

end CommitRequest

/-! STORE_RELOAD (R191). -/

theorem reloadCopies_sampler (s : State) (h : Head) :
    (reloadCopies s).sampler h = { s.sampler h with openSweep := none } := by
  cases h <;> rfl

theorem reloadCopies_store (s : State) : (reloadCopies s).store = loadCopies s.store := rfl

/-- A reload writes the store and the sample unit alone. -/
theorem reloadCopies_only (s : State) : { reloadCopies s with store := s.store, samplers := s.samplers } = s := rfl

@[simp] theorem served_anyHeadWorking (r : Request) (s : State) : anyHeadWorking (served r s) = anyHeadWorking s :=
  served_field anyHeadWorking (fun _ _ _ => rfl) r s

section Reload

variable {r : Request} {s : State} (adm : Admitted r s) (args : r.args = [])

include adm args

theorem exec_storeReload_state (working : anyHeadWorking s = true) :
    exec (.storeReload r) s = completes r .state [] (served r s) := by
  have found : anyHeadWorking (served r s) = true := by rwa [served_anyHeadWorking]
  exact request_refused 32 adm (by rw [args, wholeWalk_noArgs]) (if_pos found)

variable (still : anyHeadWorking s = false)

include still

theorem exec_storeReload_busy (programs : s.store.engine ≠ none) :
    exec (.storeReload r) s = completes r .busy [] (served r s) :=
  request_refused 32 adm (by rw [args, wholeWalk_noArgs])
    (by simp [ownStoreReload, still, Option.isSome_iff_ne_none.mpr programs])

theorem exec_storeReload_reloads (idle : s.store.engine = none) :
    exec (.storeReload r) s = completes r .done (reloadBytes s.store) (reloadCopies (served r s)) :=
  request_completes 32 adm (by rw [args, wholeWalk_noArgs])
    (by simp [ownStoreReload, still, idle, doneWith]) (served_resetTaken r s)

end Reload

/-! COMMIT_COMPLETION (R189, R190). -/

/-- The programmed record is VALID with the contents; the other records and the rest of the store are left. -/
theorem storeValid_eq (x : ParameterStore) (c : Contents) :
    storeValid x c = { x with
      sensorRec := match c with | .sensorCal p => .valid p | _ => x.sensorRec
      channelRec := match c with | .channelCal p => .valid p | _ => x.channelRec
      wearRec := match c with | .wear p => .valid p | _ => x.wearRec
      protectRec := match c with | .protect p => .valid p | _ => x.protectRec } := by
  cases c <;> rfl

@[simp] theorem queueEvent_store (kind : EventKind) (head : Option Head) (data : List (BitVec 32)) (s : State) :
    (queueEvent kind head data s).store = s.store :=
  (congrArg State.store (queueEvent_only kind head data s) :)

/-- What an event adds to the event queue does not depend on the store. -/
theorem queueEvent_setStore_mgmt (kind : EventKind) (head : Option Head) (data : List (BitVec 32)) (s : State)
    (x : ParameterStore) : (queueEvent kind head data (s.setStore x)).mgmt = (queueEvent kind head data s).mgmt := by
  rw [queueEvent_mgmt, queueEvent_mgmt]
  rfl

/-- The engine's next state: the pending WEAR write with the counters as they stand, or IDLE (R189 step 3, R190). -/
theorem engineNext_eq (s : State) :
    engineNext s = s.setStore { s.store with
      engine := if s.store.wearPending then some { contents := .wear s.store.live, origin := .internal } else none
      wearPending := false } := by
  cases pending : s.store.wearPending <;> simp [engineNext, startWearWrite, pending]

section Completion

variable (w : Write) (s : State)

theorem programmed_store :
    (programmed w s).store = { storeValid s.store w.contents with
      engine := if s.store.wearPending then some { contents := .wear s.store.live, origin := .internal } else none
      wearPending := false } := by
  simp only [programmed, engineNext_eq, State.setStore_store, queueEvent_store, storeValid_eq]

theorem programmed_mgmt :
    (programmed w s).mgmt = (queueEvent .storeCommitted none
      [BitVec.ofNat 32 (recordCode w.contents.record), BitVec.ofNat 32 (writeOriginCode w.origin)] s).mgmt := by
  simp only [programmed, engineNext_eq, State.setStore_mgmt, queueEvent_setStore_mgmt, dv]

/-- A completion writes the store and the event queue alone. -/
theorem programmed_only : { programmed w s with store := s.store, mgmt := s.mgmt } = s := by
  rw [programmed, engineNext_eq]
  exact congrArg (fun t : State => { t with store := s.store }) (queueEvent_only _ _ _ (s.setStore _))

variable {w s}

theorem exec_commitCompletion (runs : isRunning s = true) (programs : s.store.engine = some w) :
    exec .commitCompletion s = .next (settle (programmed w s)) := by
  have taken : exec .commitCompletion s = execCommitCompletion s := rfl
  simp only [taken, execCommitCompletion, whenRunning, runs, if_true, programs]

end Completion

/-- Settles O51, request by request and record by record, in the order of the checks. -/
theorem storeWritesAndReloads : Obligations.StoreWritesAndReloads := by
  refine ⟨fun r s adm => ⟨?sensorCal, ?channelCal, ?wear, ?protect, ?stageNameless, ?commitNameless, ?commit, ?reload⟩,
    ?completion⟩
  case sensorCal =>
    intro ps args
    obtain ⟨guarded, illFormed, passes⟩ := exec_storeStage_checked adm args (ownStoreStage_sensorCal r ps s)
    refine ⟨guarded, fun free bad => illFormed free ?_, fun free thick rise => passes free ?_⟩
    · exact Bool.eq_false_iff.mpr fun ok => bad ((pointsOk_iff ps).mp ok)
    · exact (pointsOk_iff ps).mpr ⟨thick, rise⟩
  case channelCal =>
    intro os args
    obtain ⟨guarded, illFormed, passes⟩ := exec_storeStage_checked adm args (ownStoreStage_channelCal r os s)
    refine ⟨guarded, fun free ⟨f, outside⟩ => illFormed free ?_, fun free inside => passes free ?_⟩
    · refine Bool.eq_false_iff.mpr fun ok => ?_
      have inside := (offsetsOk_iff os).mp ok f
      omega
    · exact (offsetsOk_iff os).mpr inside
  case wear => exact fun w => exec_storeStage_wear adm
  case protect =>
    exact fun a b args => ⟨exec_storeStage_protect_tool adm args, exec_storeStage_protect_invalid adm args,
      exec_storeStage_protect_staged adm args⟩
  case stageNameless => exact fun b rest => exec_storeStage_nameless adm
  case commitNameless => exact fun b => exec_storeCommit_nameless adm
  case commit =>
    intro x args
    refine ⟨?tool, fun allowed => ⟨exec_storeCommit_not_staged adm args allowed, fun w staged same =>
      ⟨exec_storeCommit_busy adm args allowed staged same, fun idle => ⟨fun guarded => ?guarded, fun free => ?starts⟩⟩⟩⟩
    case tool =>
      rintro tool rfl
      exact exec_storeCommit_refused adm args (ownStoreCommit_of_tool_protect _ tool)
    case guarded =>
      exact exec_storeCommit_protected adm args allowed staged same idle ((isProtected_iff s.store x).mpr guarded)
    case starts =>
      refine exec_storeCommit_starts adm args allowed staged same idle (Bool.eq_false_iff.mpr fun guarded => ?_)
      exact free ((isProtected_iff s.store x).mp guarded)
  case reload =>
    intro args
    refine ⟨exec_storeReload_state adm args, exec_storeReload_busy adm args, fun still idle =>
      ⟨reloadCopies (served r s), exec_storeReload_reloads adm args still idle, ?copies, fun h => ?sweeps, ?rest⟩⟩
    case copies => rw [reloadCopies_store, served_store, loadCopies]
    case sweeps => rw [reloadCopies_sampler, served_sampler]
    case rest =>
      have left := reloadCopies_only (served r s)
      rwa [served_store, served_samplers] at left
  case completion =>
    intro s runs w programs
    refine ⟨programmed w s, exec_commitCompletion runs programs, ?_⟩
    rw [programmed_store, programmed_mgmt, storeValid_eq]
    exact ⟨rfl, rfl, rfl, rfl, rfl, rfl, rfl, rfl, rfl, rfl, rfl, rfl, programmed_only w s⟩

end Sys2Proof.Machine


/-! ## The pad: an expiry that PadKept does not exclude (R12, R72, R73) -/

namespace Sys2Proof.Machine

/-- A step of time mode with no pressures, naming this pad service entry. -/
def plainStep (pad : Option Nat) : StepRecord :=
  { endMode := .time, limit := 1000, base := PerArea.fill 0, bounds := PerArea.fill ⟨0, 0⟩, minSamples := 3
    control := none, endpoint := none, pad }

/-- Head A waits for entry 0 under station hold, and its step timer runs and is due: `TimersKept` excludes the timer, but
`PadKept` says nothing of timers. Its next step needs no pad. -/
def waitingWithTimer : State :=
  { State.reset with
    pending := [.stepTimerExpiry .a]
    base := { resetBase with phase := .running }
    steps := [some (plainStep (some 0)), some (plainStep none)]
    seqs := ⟨{ resetSequencer with
      state := .waitPad, program := some [0, 1], position := some 1, timer := .running 0 }, resetSequencer⟩
    arb := { resetArbiter with waiting := [(.a, 0)], hold := true } }

theorem waitingWithTimer_programKept (h : Head) : ProgramKept waitingWithTimer h := by
  cases h with
  | a =>
    refine ⟨?_, fun _ => ⟨[0, 1], 1, by decide⟩⟩
    intro p named
    obtain rfl : [0, 1] = p := Option.some.inj named
    decide
  | b => exact ⟨fun _ named => (nomatch named), fun works => nomatch works⟩

theorem waitingWithTimer_not_onPad (h : Head) : ¬onPad waitingWithTimer h := by
  cases h <;> simp [onPad, waitingWithTimer, State.seq, Pair.get, resetSequencer]

theorem waitingWithTimer_padKept : PadKept waitingWithTimer where
  programA := waitingWithTimer_programKept .a
  programB := waitingWithTimer_programKept .b
  holders g h granted := by cases granted
  other h on := absurd on (waitingWithTimer_not_onPad h)
  held g granted := by cases granted
  hold _ := rfl
  waiters h e := by
    cases h with
    | a =>
      have entry : stepEntryOf waitingWithTimer .a = some 0 := by decide
      have state : (waitingWithTimer.seq .a).state = .waitPad := rfl
      have waiting : waitingWithTimer.arb.waiting = [(.a, 0)] := rfl
      simp [entry, state, waiting, eq_comm]
    | b => simp [waitingWithTimer, State.seq, Pair.get, resetSequencer]
  waits h waits := by
    cases h with
    | a => decide
    | b => cases waits
  once := by decide
  behind off := by cases off
  running r runs := by cases runs

/-- The expiry ends the step and the head polishes, without having withdrawn. -/
theorem step_waitingWithTimer :
    ∃ t, step waitingWithTimer = .next t ∧ (Head.a, 0) ∈ t.arb.waiting ∧ (t.seq .a).state = .polishing :=
  ⟨_, rfl, by decide, by decide⟩

/-- Refutes O60: `PadKept` alone allows a due step timer of a head in WAIT_PAD, whose expiry ends the step while the head
stays in the waiting list. -/
theorem not_stepKeepsThePad : ¬Obligations.StepKeepsThePad := by
  intro keeps
  obtain ⟨t, stepped, waits, polishing⟩ := step_waitingWithTimer
  have kept := keeps _ t waitingWithTimer_padKept stepped
  obtain ⟨waiting, _⟩ := (kept.waiters .a 0).mp waits
  rw [polishing] at waiting
  cases waiting

end Sys2Proof.Machine

/-! ## The step, reset, and the small laws of slots and lines -/

namespace Sys2Proof.Machine

/-- Settles O1, by the definition of a step. -/
theorem stepTakesTheFrontCommand : Obligations.StepTakesTheFrontCommand := by
  intro c rest s front
  simp only [step, front]

/-! What the accessors answer on the reset state. -/

@[simp] theorem reset_seq (h : Head) : State.reset.seq h = resetSequencer := by cases h <;> rfl
@[simp] theorem reset_sampler (h : Head) : State.reset.sampler h = resetSampler := by cases h <;> rfl
@[simp] theorem reset_comp (h : Head) : State.reset.comp h = none := by cases h <;> rfl
@[simp] theorem reset_fn (f : Fn) : State.reset.fn f = resetFn := PerFn.get_fill resetFn f
@[simp] theorem reset_slot (f : Fn) : State.reset.slots.get f = none := PerFn.get_fill none f
@[simp] theorem reset_source (k : SourceId) : State.reset.source k = resetSource k := PerSource.get_tabulate _ k

/-- Settles O4: `State.reset` is written in these values. -/
theorem resetHoldsTheStatedValues : Obligations.ResetHoldsTheStatedValues := by
  refine ⟨rfl, fun h => ?_, fun i => rfl, fun h => ?_, reset_comp, rfl, rfl, rfl, reset_fn, rfl, reset_slot, ?_, rfl,
    rfl, rfl, fun k => ?_, by decide, rfl, rfl, rfl, rfl, rfl, rfl, rfl, rfl⟩
  · rw [reset_seq]; rfl
  · rw [reset_sampler]; rfl
  · simp [State.reset, resetPort]
  · rw [reset_source]; exact ⟨rfl, rfl, rfl, rfl, rfl⟩

/-! The invariants right after reset. -/

theorem reset_queuesBounded : QueuesBounded State.reset where
  down := Nat.zero_le _
  up := Nat.zero_le _
  requests := Nat.zero_le _
  responses := Nat.zero_le _
  heldBack _ := rfl
  events := Nat.zero_le _

theorem resetSampler_historyOrdered : HistoryOrdered resetSampler where
  short := Nat.zero_le _
  rising := List.Pairwise.nil
  below _ stands := nomatch stands
  count := Nat.zero_le _

theorem resetConditions_settingsOk : SettingsOk resetConditions where
  low k := by cases k <;> decide
  high k := by cases k <;> decide
  supervision := rfl
  portD := rfl
  reset k := by cases k <;> decide

theorem resetConditions_levelsOk : LevelsOk resetConditions where
  level := Nat.zero_le _
  rising := List.Pairwise.nil
  below _ stands := nomatch stands
  depth := Nat.zero_le _

theorem reset_channelsDistinct : ChannelsDistinct State.reset where
  functions f g c held := by simp [resetFn] at held
  sensor f c held := by simp [resetFn] at held

theorem resetSequencer_timersKept : TimersKept resetSequencer := by
  constructor <;> intros <;> contradiction

theorem reset_modeKept : ModeKept State.reset where
  held _ := rfl
  limits active := nomatch active
  slots _ := reset_slot
  heads _ := rfl
  timer _ := rfl
  loss _ := rfl
  inBand _ f := by rw [reset_fn]; exact ⟨rfl, rfl⟩

theorem reset_stationKept : StationKept State.reset where
  mode := reset_modeKept
  a := resetSequencer_timersKept
  b := resetSequencer_timersKept

theorem noWear_ok : WearOk noWear := by constructor <;> exact Nat.zero_le _

theorem reset_storeKept : StoreKept State.reset where
  live := noWear_ok
  record _ valid := nomatch valid
  engine _ _ programs := nomatch programs
  padRem := by decide
  diskRem := by decide
  pending marked := nomatch marked
  staged _ staged := nomatch staged

theorem reset_programKept (h : Head) : ProgramKept State.reset h where
  loaded p named := by simp [resetSequencer] at named
  position works := by simp [headWorking, resetSequencer, HeadState.working] at works

theorem reset_not_onPad (h : Head) : ¬onPad State.reset h := by simp [onPad, resetSequencer]

theorem reset_padKept : PadKept State.reset where
  programA := reset_programKept .a
  programB := reset_programKept .b
  holders _ _ granted := nomatch granted
  other h on := absurd on (reset_not_onPad h)
  held _ granted := nomatch granted
  hold _ := rfl
  waiters h e := iff_of_false (fun stands => nomatch stands) (fun waits => by simp [resetSequencer] at waits)
  waits h waits := by simp [resetSequencer] at waits
  once := List.nodup_nil
  behind _ _ stands := nomatch stands
  running _ runs := nomatch runs

/-- Settles O55, invariant by invariant. -/
theorem resetKeepsInvariants : Obligations.ResetKeepsInvariants :=
  ⟨reset_queuesBounded, fun h => by rw [reset_sampler]; exact resetSampler_historyOrdered, resetConditions_settingsOk,
    resetConditions_levelsOk, reset_channelsDistinct, reset_stationKept, reset_storeKept, reset_padKept⟩

/-! Slot writes (R108). -/

theorem active_eq_false {s : State} (transparent : s.mgmt.mode = .transparent) : s.active = false := by
  simp [State.active, transparent]

theorem active_eq_true {s : State} (active : s.mgmt.mode = .active) : s.active = true := by
  simp [State.active, active]

theorem writeSlot_of_transparent {s : State} (f : Fn) (v : Nat) (transparent : s.mgmt.mode = .transparent) :
    writeSlot f v s = s := by
  simp [writeSlot, active_eq_false transparent]

/-- The written slot keeps the write time of a pending one (R108). -/
theorem writeSlot_get_same {s : State} (f : Fn) (v : Nat) (active : s.active = true) :
    (writeSlot f v s).slots.get f =
      some { value := v, written := ((s.slots.get f).map Slot.written).getD s.base.time } := by
  rw [writeSlot_slots, if_pos active, PerFn.get_set_same]
  cases s.slots.get f <;> rfl

theorem writeSlot_get_of_ne {f g : Fn} (v : Nat) (s : State) (other : g ≠ f) :
    (writeSlot f v s).slots.get g = s.slots.get g := by
  rw [writeSlot_slots]
  split
  · exact PerFn.get_set_of_ne _ _ other
  · rfl

/-- Settles O19, by the laws of a slot write. -/
theorem slotWritesKeepTheFirstTime : Obligations.SlotWritesKeepTheFirstTime := by
  intro f v s
  refine ⟨writeSlot_of_transparent f v, fun active => ⟨?_, ?_, writeSlot_only f v s⟩⟩
  · exact writeSlot_get_same f v (active_eq_true active)
  · exact fun g other => writeSlot_get_of_ne v s other

/-- An event of a part that runs is its effect, after which the transmitters choose. -/
theorem whenRunning_of_running {effect : State → State} {s : State} (runs : isRunning s = true) :
    whenRunning effect s = settle (effect s) := by
  rw [whenRunning, if_pos runs]

theorem PortState.isOnline_eq_false {p : PortState} (off : p.link ≠ .online) : p.isOnline = false :=
  decide_eq_false off

theorem PortState.isOnline_eq_true {p : PortState} (on : p.link = .online) : p.isOnline = true :=
  decide_eq_true on

/-- A Port D that goes OFFLINE reports the beginning of PORT_D_LOSS presence (R123). -/
theorem movePortD_down {p : PortState} {s : State} (on : s.portD.link = .online) (off : p.link ≠ .online) :
    movePortD p s = beginPresence .portDLoss none { s with portD := p } := by
  simp [movePortD, PortState.isOnline_eq_true on, PortState.isOnline_eq_false off]

/-- A Port D that comes ONLINE reports the loss of the presence (R123). -/
theorem movePortD_up {p : PortState} {s : State} (off : s.portD.link ≠ .online) (on : p.link = .online) :
    movePortD p s = losePresence .portDLoss { s with portD := p } := by
  simp [movePortD, PortState.isOnline_eq_true on, PortState.isOnline_eq_false off]

/-- A move that does not cross between ONLINE and OFFLINE reports nothing (R123). -/
theorem movePortD_stays {p : PortState} {s : State} (same : s.portD.link = .online ↔ p.link = .online) :
    movePortD p s = { s with portD := p } := by
  have same : s.portD.isOnline = p.isOnline := by simpa [PortState.isOnline] using same
  cases on : p.isOnline <;> simp [movePortD, same, on]

/-- Settles O25: each event moves its port, and Port D reports a change to OFFLINE. -/
theorem lineLossAndTransmitEnd : Obligations.LineLossAndTransmitEnd := by
  intro s runs
  have lost : ¬(portLoss s.portD).link = .online := by simp [portLoss]
  refine ⟨?_, ?_, ?_, fun off => ?_, fun on => ?_⟩
  · exact congrArg Host.Outcome.next (whenRunning_of_running runs)
  · exact congrArg Host.Outcome.next (whenRunning_of_running runs)
  · exact congrArg Host.Outcome.next (whenRunning_of_running runs)
  · refine congrArg Host.Outcome.next ((whenRunning_of_running runs).trans (congrArg settle ?_))
    exact movePortD_stays (iff_of_false off lost)
  · refine congrArg Host.Outcome.next ((whenRunning_of_running runs).trans (congrArg settle ?_))
    exact movePortD_down on lost

end Sys2Proof.Machine


/-! ## Who moves the sequencers: frames of the head and pad operations -/

namespace Sys2Proof.Machine

/-! One lemma per field for the event queue and the slot writes, whose blocks are the management unit and the slots. -/

theorem queueEvent_field {α : Type} (f : State → α) (e : ∀ (t : State) (m : Management), f { t with mgmt := m } = f t)
    (kind : EventKind) (head : Option Head) (data : List (BitVec 32)) (s : State) :
    f (queueEvent kind head data s) = f s := by
  rw [← e (queueEvent kind head data s) s.mgmt, queueEvent_only]

theorem writeSlots_field {α : Type} (f : State → α)
    (e : ∀ (t : State) (x : PerFn (Option Slot)), f { t with slots := x } = f t) (ws : List (Fn × Nat)) (s : State) :
    f (writeSlots ws s) = f s := by
  rw [← e (writeSlots ws s) s.slots, writeSlots_only]

theorem writeSlot_field {α : Type} (f : State → α)
    (e : ∀ (t : State) (x : PerFn (Option Slot)), f { t with slots := x } = f t) (g : Fn) (v : Nat) (s : State) :
    f (writeSlot g v s) = f s := by
  rw [← e (writeSlot g v s) s.slots, writeSlot_only]

section Fields

variable (kind : EventKind) (head : Option Head) (data : List (BitVec 32)) (ws : List (Fn × Nat)) (g : Fn) (v : Nat)
  (s : State) (h : Head) (k : SourceId)

@[simp] theorem queueEvent_pending : (queueEvent kind head data s).pending = s.pending :=
  queueEvent_field State.pending (fun _ _ => rfl) kind head data s
@[simp] theorem writeSlots_pending : (writeSlots ws s).pending = s.pending :=
  writeSlots_field State.pending (fun _ _ => rfl) ws s
@[simp] theorem writeSlot_pending : (writeSlot g v s).pending = s.pending :=
  writeSlot_field State.pending (fun _ _ => rfl) g v s
@[simp] theorem queueEvent_base : (queueEvent kind head data s).base = s.base :=
  queueEvent_field State.base (fun _ _ => rfl) kind head data s
@[simp] theorem writeSlots_base : (writeSlots ws s).base = s.base :=
  writeSlots_field State.base (fun _ _ => rfl) ws s
@[simp] theorem writeSlot_base : (writeSlot g v s).base = s.base :=
  writeSlot_field State.base (fun _ _ => rfl) g v s
@[simp] theorem queueEvent_portU : (queueEvent kind head data s).portU = s.portU :=
  queueEvent_field State.portU (fun _ _ => rfl) kind head data s
@[simp] theorem writeSlots_portU : (writeSlots ws s).portU = s.portU :=
  writeSlots_field State.portU (fun _ _ => rfl) ws s
@[simp] theorem writeSlot_portU : (writeSlot g v s).portU = s.portU :=
  writeSlot_field State.portU (fun _ _ => rfl) g v s
@[simp] theorem queueEvent_portD : (queueEvent kind head data s).portD = s.portD :=
  queueEvent_field State.portD (fun _ _ => rfl) kind head data s
@[simp] theorem writeSlots_portD : (writeSlots ws s).portD = s.portD :=
  writeSlots_field State.portD (fun _ _ => rfl) ws s
@[simp] theorem writeSlot_portD : (writeSlot g v s).portD = s.portD :=
  writeSlot_field State.portD (fun _ _ => rfl) g v s
@[simp] theorem queueEvent_fwd : (queueEvent kind head data s).fwd = s.fwd :=
  queueEvent_field State.fwd (fun _ _ => rfl) kind head data s
@[simp] theorem writeSlots_fwd : (writeSlots ws s).fwd = s.fwd :=
  writeSlots_field State.fwd (fun _ _ => rfl) ws s
@[simp] theorem writeSlot_fwd : (writeSlot g v s).fwd = s.fwd :=
  writeSlot_field State.fwd (fun _ _ => rfl) g v s
@[simp] theorem queueEvent_fmap : (queueEvent kind head data s).fmap = s.fmap :=
  queueEvent_field State.fmap (fun _ _ => rfl) kind head data s
@[simp] theorem writeSlots_fmap : (writeSlots ws s).fmap = s.fmap :=
  writeSlots_field State.fmap (fun _ _ => rfl) ws s
@[simp] theorem writeSlot_fmap : (writeSlot g v s).fmap = s.fmap :=
  writeSlot_field State.fmap (fun _ _ => rfl) g v s
@[simp] theorem queueEvent_slots : (queueEvent kind head data s).slots = s.slots :=
  queueEvent_field State.slots (fun _ _ => rfl) kind head data s
@[simp] theorem queueEvent_samplers : (queueEvent kind head data s).samplers = s.samplers :=
  queueEvent_field State.samplers (fun _ _ => rfl) kind head data s
@[simp] theorem writeSlots_samplers : (writeSlots ws s).samplers = s.samplers :=
  writeSlots_field State.samplers (fun _ _ => rfl) ws s
@[simp] theorem writeSlot_samplers : (writeSlot g v s).samplers = s.samplers :=
  writeSlot_field State.samplers (fun _ _ => rfl) g v s
@[simp] theorem queueEvent_seqs : (queueEvent kind head data s).seqs = s.seqs :=
  queueEvent_field State.seqs (fun _ _ => rfl) kind head data s
@[simp] theorem writeSlots_seqs : (writeSlots ws s).seqs = s.seqs :=
  writeSlots_field State.seqs (fun _ _ => rfl) ws s
@[simp] theorem writeSlot_seqs : (writeSlot g v s).seqs = s.seqs :=
  writeSlot_field State.seqs (fun _ _ => rfl) g v s
@[simp] theorem queueEvent_steps : (queueEvent kind head data s).steps = s.steps :=
  queueEvent_field State.steps (fun _ _ => rfl) kind head data s
@[simp] theorem writeSlots_steps : (writeSlots ws s).steps = s.steps :=
  writeSlots_field State.steps (fun _ _ => rfl) ws s
@[simp] theorem writeSlot_steps : (writeSlot g v s).steps = s.steps :=
  writeSlot_field State.steps (fun _ _ => rfl) g v s
@[simp] theorem queueEvent_comps : (queueEvent kind head data s).comps = s.comps :=
  queueEvent_field State.comps (fun _ _ => rfl) kind head data s
@[simp] theorem writeSlots_comps : (writeSlots ws s).comps = s.comps :=
  writeSlots_field State.comps (fun _ _ => rfl) ws s
@[simp] theorem writeSlot_comps : (writeSlot g v s).comps = s.comps :=
  writeSlot_field State.comps (fun _ _ => rfl) g v s
@[simp] theorem queueEvent_arb : (queueEvent kind head data s).arb = s.arb :=
  queueEvent_field State.arb (fun _ _ => rfl) kind head data s
@[simp] theorem writeSlots_arb : (writeSlots ws s).arb = s.arb :=
  writeSlots_field State.arb (fun _ _ => rfl) ws s
@[simp] theorem writeSlot_arb : (writeSlot g v s).arb = s.arb :=
  writeSlot_field State.arb (fun _ _ => rfl) g v s
@[simp] theorem queueEvent_dose : (queueEvent kind head data s).dose = s.dose :=
  queueEvent_field State.dose (fun _ _ => rfl) kind head data s
@[simp] theorem writeSlots_dose : (writeSlots ws s).dose = s.dose :=
  writeSlots_field State.dose (fun _ _ => rfl) ws s
@[simp] theorem writeSlot_dose : (writeSlot g v s).dose = s.dose :=
  writeSlot_field State.dose (fun _ _ => rfl) g v s
@[simp] theorem queueEvent_cdr : (queueEvent kind head data s).cdr = s.cdr :=
  queueEvent_field State.cdr (fun _ _ => rfl) kind head data s
@[simp] theorem writeSlots_cdr : (writeSlots ws s).cdr = s.cdr :=
  writeSlots_field State.cdr (fun _ _ => rfl) ws s
@[simp] theorem writeSlot_cdr : (writeSlot g v s).cdr = s.cdr :=
  writeSlot_field State.cdr (fun _ _ => rfl) g v s
@[simp] theorem queueEvent_cu : (queueEvent kind head data s).cu = s.cu :=
  queueEvent_field State.cu (fun _ _ => rfl) kind head data s
@[simp] theorem writeSlots_cu : (writeSlots ws s).cu = s.cu :=
  writeSlots_field State.cu (fun _ _ => rfl) ws s
@[simp] theorem writeSlot_cu : (writeSlot g v s).cu = s.cu :=
  writeSlot_field State.cu (fun _ _ => rfl) g v s
@[simp] theorem writeSlots_mgmt : (writeSlots ws s).mgmt = s.mgmt :=
  writeSlots_field State.mgmt (fun _ _ => rfl) ws s
@[simp] theorem writeSlot_mgmt : (writeSlot g v s).mgmt = s.mgmt :=
  writeSlot_field State.mgmt (fun _ _ => rfl) g v s
@[simp] theorem writeSlots_store : (writeSlots ws s).store = s.store :=
  writeSlots_field State.store (fun _ _ => rfl) ws s
@[simp] theorem writeSlot_store : (writeSlot g v s).store = s.store :=
  writeSlot_field State.store (fun _ _ => rfl) g v s
@[simp] theorem queueEvent_choice : (queueEvent kind head data s).choice = s.choice :=
  queueEvent_field State.choice (fun _ _ => rfl) kind head data s
@[simp] theorem writeSlots_choice : (writeSlots ws s).choice = s.choice :=
  writeSlots_field State.choice (fun _ _ => rfl) ws s
@[simp] theorem writeSlot_choice : (writeSlot g v s).choice = s.choice :=
  writeSlot_field State.choice (fun _ _ => rfl) g v s
@[simp] theorem queueEvent_seq : (queueEvent kind head data s).seq h = s.seq h :=
  queueEvent_field (·.seq h) (fun _ _ => rfl) kind head data s
@[simp] theorem writeSlots_seq : (writeSlots ws s).seq h = s.seq h :=
  writeSlots_field (·.seq h) (fun _ _ => rfl) ws s
@[simp] theorem writeSlot_seq : (writeSlot g v s).seq h = s.seq h :=
  writeSlot_field (·.seq h) (fun _ _ => rfl) g v s
@[simp] theorem queueEvent_sampler : (queueEvent kind head data s).sampler h = s.sampler h :=
  queueEvent_field (·.sampler h) (fun _ _ => rfl) kind head data s
@[simp] theorem writeSlots_sampler : (writeSlots ws s).sampler h = s.sampler h :=
  writeSlots_field (·.sampler h) (fun _ _ => rfl) ws s
@[simp] theorem writeSlot_sampler : (writeSlot g v s).sampler h = s.sampler h :=
  writeSlot_field (·.sampler h) (fun _ _ => rfl) g v s
@[simp] theorem queueEvent_comp : (queueEvent kind head data s).comp h = s.comp h :=
  queueEvent_field (·.comp h) (fun _ _ => rfl) kind head data s
@[simp] theorem writeSlots_comp : (writeSlots ws s).comp h = s.comp h :=
  writeSlots_field (·.comp h) (fun _ _ => rfl) ws s
@[simp] theorem writeSlot_comp : (writeSlot g v s).comp h = s.comp h :=
  writeSlot_field (·.comp h) (fun _ _ => rfl) g v s
@[simp] theorem queueEvent_fn : (queueEvent kind head data s).fn g = s.fn g :=
  queueEvent_field (·.fn g) (fun _ _ => rfl) kind head data s
@[simp] theorem queueEvent_source : (queueEvent kind head data s).source k = s.source k :=
  queueEvent_field (·.source k) (fun _ _ => rfl) kind head data s
@[simp] theorem writeSlots_source : (writeSlots ws s).source k = s.source k :=
  writeSlots_field (·.source k) (fun _ _ => rfl) ws s
@[simp] theorem writeSlot_source : (writeSlot g v s).source k = s.source k :=
  writeSlot_field (·.source k) (fun _ _ => rfl) g v s
@[simp] theorem queueEvent_active : (queueEvent kind head data s).active = s.active :=
  (queueEvent_moves kind head data s).active
@[simp] theorem queueEvent_lim : (queueEvent kind head data s).lim = s.lim := (queueEvent_moves kind head data s).lim
@[simp] theorem writeSlots_active : (writeSlots ws s).active = s.active := (writeSlots_moves ws s).active
@[simp] theorem writeSlots_lim : (writeSlots ws s).lim = s.lim := (writeSlots_moves ws s).lim
@[simp] theorem writeSlot_lim : (writeSlot g v s).lim = s.lim := (writeSlot_moves g v s).lim

end Fields

/-! Operations that leave both sequencers. -/

@[simp] theorem writeDosing_seqs (d : Dose) (s : State) : (writeDosing d s).seqs = s.seqs := by
  unfold writeDosing
  split
  · exact writeSlots_seqs _ _
  · rfl

@[simp] theorem doseEntry_seqs (e n : Nat) (s : State) : (doseEntry e n s).seqs = s.seqs := writeDosing_seqs _ s

@[simp] theorem enterTravel_seqs (run : CondRun) (n : Nat) (seg : Segment) (s : State) :
    (enterTravel run n seg s).seqs = s.seqs := by
  simp [enterTravel]

@[simp] theorem startProgram_seqs (k : Nat) (s : State) : (startProgram k s).seqs = s.seqs := by
  unfold startProgram
  split
  · rfl
  · split
    · rfl
    · simp

@[simp] theorem conditionEntry_seqs (e : Nat) (s : State) : (conditionEntry e s).seqs = s.seqs := by
  unfold conditionEntry
  split <;> simp

@[simp] theorem stopProgram_seqs (s : State) : (stopProgram s).seqs = s.seqs := rfl

@[simp] theorem writeIdleValues_seqs (s : State) : (writeIdleValues s).seqs = s.seqs := by simp [writeIdleValues]

@[simp] theorem writeHoldValues_seqs (s : State) : (writeHoldValues s).seqs = s.seqs := by simp [writeHoldValues]

@[simp] theorem startEntry_seqs (h : Head) (e : Nat) (s : State) : (startEntry h e s).seqs = s.seqs := by
  simp [startEntry]

@[simp] theorem joinService_seqs (h : Head) (g : Grant) (s : State) : (joinService h g s).seqs = s.seqs := by
  simp [joinService]

@[simp] theorem withdraw_seqs (h : Head) (s : State) : (withdraw h s).seqs = s.seqs := rfl

@[simp] theorem beginHold_seqs (s : State) : (beginHold s).seqs = s.seqs := by
  unfold beginHold
  split <;> simp

/-! Operations on one head. -/

@[simp] theorem commandAll_seq (h : Head) (p : PerArea Nat) (s : State) :
    (commandAll h p s).seq h = { s.seq h with commanded := PerArea.tabulate fun x => some (p.get x) } := by
  simp [commandAll, State.seq]

theorem commandAll_seq_of_ne {h k : Head} (p : PerArea Nat) (s : State) (other : k ≠ h) :
    (commandAll h p s).seq k = s.seq k := by
  simp [commandAll, State.seq, Pair.get_set_of_ne _ _ other]

theorem polishingEntry_seq_of_ne {h k : Head} (s : State) (other : k ≠ h) :
    (polishingEntry h s).seq k = s.seq k := by
  unfold polishingEntry
  split
  · rfl
  · simp [State.seq, commandAll, clearSweeps, Pair.get_set_of_ne _ _ other]

/-- A grant reaches a waiting head alone (R10). -/
theorem grantWaiting_seq_of_not_waiting {w h : Head} {s : State} (still : w ≠ h ∨ (s.seq h).state ≠ .waitPad) :
    (grantWaiting w s).seq h = s.seq h := by
  unfold grantWaiting
  split
  case isTrue waits =>
    rcases still with other | notWaiting
    · exact polishingEntry_seq_of_ne s other.symm
    · by_cases same : h = w
      · exact absurd (same ▸ waits) notWaiting
      · exact polishingEntry_seq_of_ne s same
  case isFalse => rfl

/-- A head that the release cannot hand the pad to: it is not in WAIT_PAD, or not in the waiting list. -/
def NotGranted (s : State) (h : Head) : Prop := (s.seq h).state = .waitPad → ∀ w ∈ s.arb.waiting, w.1 ≠ h

theorem NotGranted.of_state {s : State} {h : Head} (moves : (s.seq h).state ≠ .waitPad) : NotGranted s h :=
  fun waits => absurd waits moves

theorem NotGranted.withdraw (s : State) (h : Head) : NotGranted (withdraw h s) h := by
  intro _ w stands
  have kept := (List.mem_filter.mp stands).2
  simpa using kept

/-- A release moves no sequencer but that of a waiting head (R74). -/
theorem releasePad_seq {s : State} {h : Head} (k : Head) (still : NotGranted s h) :
    (releasePad k s).seq h = s.seq h := by
  unfold releasePad
  split
  · rfl
  · split
    case isFalse => rfl
    case isTrue =>
      dsimp only
      split
      · simp [State.seq]
      · split
        · rename_i w e rest waiting
          have apart : w ≠ h ∨ (s.seq h).state ≠ .waitPad := by
            by_cases waits : (s.seq h).state = .waitPad
            · exact .inl (still waits (w, e) (by simp [waiting]))
            · exact .inr waits
          refine (grantWaiting_seq_of_not_waiting ?_).trans (by simp [State.seq])
          simpa [State.seq] using apart
        · simp [State.seq]

theorem releaseOther_seq {s : State} {h : Head} (k : Head) (e : Nat) (still : NotGranted s h) :
    (releaseOther k e s).seq h = s.seq h := by
  unfold releaseOther
  split
  · rfl
  · exact releasePad_seq k still

theorem leavePad_seq_same (h : Head) (s : State) : (leavePad h s).seq h = s.seq h := by
  unfold leavePad
  split
  · simp [State.seq]
  · rename_i notWaiting
    exact releasePad_seq h (NotGranted.of_state notWaiting)

theorem leavePad_seq_of_state {h : Head} (k : Head) {s : State} (notWaiting : (s.seq h).state ≠ .waitPad) :
    (leavePad k s).seq h = s.seq h := by
  unfold leavePad
  split
  · simp [State.seq]
  · exact releasePad_seq k (NotGranted.of_state notWaiting)

/-! Timers of one head (R12, R13, R25). -/

/-- Both timers stand still and no polishing interval is open. -/
structure Rested (q : Sequencer) : Prop where
  timer    : q.timer = .stopped
  gap      : q.gap = none
  interval : ∀ c, q.current = some c → c.interval = none

theorem Rested.timersKept {q : Sequencer} (rest : Rested q) : TimersKept q where
  running d runs := by rw [rest.timer] at runs; cases runs
  frozen d frozen := by rw [rest.timer] at frozen; cases frozen
  expired expired := by rw [rest.timer] at expired; cases expired
  gap d runs := by rw [rest.gap] at runs; cases runs
  interval c d stands opened := by rw [rest.interval c stands] at opened; cases opened

/-- Outside POLISHING and PAUSED the timers stand still. -/
theorem TimersKept.rested {q : Sequencer} (kept : TimersKept q) (notPolishing : q.state ≠ .polishing)
    (notPaused : q.state ≠ .paused) : Rested q where
  timer := by
    cases timer : q.timer with
    | stopped => rfl
    | running d => exact absurd (kept.running d timer) notPolishing
    | frozen d => exact absurd (kept.frozen d timer) notPaused
    | expired => exact absurd (kept.expired timer) (by simp [notPolishing, notPaused])
  gap := Option.eq_none_iff_forall_ne_some.mpr fun d runs => notPolishing (kept.gap d runs)
  interval c stands := Option.eq_none_iff_forall_ne_some.mpr fun d opened =>
    notPolishing (kept.interval c d stands opened)

theorem rested_stopped (now : Time) (q : Sequencer) : Rested (closeInterval now (stopTimers q)) where
  timer := rfl
  gap := rfl
  interval c stands := by
    obtain ⟨old, _, rfl⟩ := Option.map_eq_some_iff.mp stands
    rfl

/-- In POLISHING every timer but a FROZEN one may stand as it does. -/
theorem timersKept_of_polishing {q : Sequencer} (polishing : q.state = .polishing)
    (thawed : ∀ d, q.timer ≠ .frozen d) : TimersKept q where
  running _ _ := polishing
  frozen d frozen := absurd frozen (thawed d)
  expired _ := .inl polishing
  gap _ _ := polishing
  interval _ _ _ _ := polishing

end Sys2Proof.Machine


/-! ## One induction for every invariant: a predicate kept by each write of a block is kept by every command -/

namespace Sys2Proof.Machine

/-- A new value of a sequencer that keeps its timers' rules, and puts a head to work only where one may work. -/
structure SeqWrite (s : State) (h : Head) (q : Sequencer) : Prop where
  timers : TimersKept (s.seq h) → TimersKept q
  works  : q.state.working = true → s.active = true ∨ headWorking s h = true

/-- New settings of a source that keep the ranges of R138. -/
structure SettingsWrite (k : SourceId) (old new : Source) : Prop where
  severity : new.severity = old.severity ∨ (isSpecial k = false ∧ 1 ≤ new.severity ∧ new.severity ≤ 15)
  action   : new.action = old.action ∨ new.action ≠ .reset ∨ isSpecial k = true

/-- A new entry of the function map that keeps the assignment, and moves deviation state and echo count only in ACTIVE mode,
or back to rest, or from a dwell that runs. -/
structure FnWrite (s : State) (f : Fn) (x : FnState) : Prop where
  assign : x.assign = (s.fn f).assign
  dev    : x.dev = .inBand ∨ (s.fn f).dev ≠ .inBand ∨ s.active = true
  echo   : x.echo = 0 ∨ x.echo = (s.fn f).echo ∨ s.active = true

/-- A predicate that each write of a block keeps, where the write comes with what the operations ensure of it. `free` says
that the predicate does not read the sequencers; one that does has a step timer run in POLISHING alone. -/
structure Kept (free : Prop) (P : State → Prop) : Prop where
  polishes : ∀ {s} (h : Head) (d : Time), P s → (s.seq h).timer = .running d → free ∨ (s.seq h).state = .polishing
  choice  : ∀ {s} (n : Nat), P s → P { s with choice := n } := by
    intros; assumption
  events  : ∀ {s} (es : List EventRecord) (d : Bool), (s.mgmt.events.length ≤ Config.eventCapacity → es.length ≤ Config.eventCapacity) →
    P s →
    P { s with mgmt := { s.mgmt with events := es, dropped := d } } := by
    intros; assumption
  slots   : ∀ {s} (x : PerFn (Option Slot)), s.active = true → P s → P { s with slots := x } := by
    intros; assumption
  dose    : ∀ {s} (d : DosingUnit), P s → P { s with dose := d } := by
    intros; assumption
  arb     : ∀ {s} (a : Arbiter), P s → P { s with arb := a } := by
    intros; assumption
  cdr     : ∀ {s} (c : Conditioner), (StoreKept s → StoreKept { s with cdr := c }) → P s → P { s with cdr := c } := by
    intros; assumption
  steps   : ∀ {s} (x : Table StepRecord), P s → P { s with steps := x } := by
    intros; assumption
  comp    : ∀ {s} (h : Head) (c : Option Computation), P s → P (s.setComp h c) := by
    intros; assumption
  sampler : ∀ {s} (h : Head) (p : Sampler), (HistoryOrdered (s.sampler h) → HistoryOrdered p) → P s →
    P (s.setSampler h p) := by
    intros; assumption
  seq     : ∀ {s} {h : Head} {q : Sequencer}, free ∨ SeqWrite s h q → P s → P (s.setSeq h q) := by
    intros; assumption
  source  : ∀ {s} {k : SourceId} {x : Source}, SettingsWrite k (s.source k) x → P s → P (s.setSource k x) := by
    intros; assumption
  raise   : ∀ {s} {k : SourceId}, takeable s k = true → P s → P (raiseLevel k s) := by
    intros; assumption
  level   : ∀ {s} {v : Nat}, v ≤ 15 → P s → P { s with cu := { s.cu with level := v, stack := [] } } := by
    intros; assumption
  resume  : ∀ {s} {top : Nat}, s.cu.stack.getLast? = some top → P s →
    P { s with cu := { s.cu with level := top, stack := s.cu.stack.dropLast } } := by
    intros; assumption
  repend  : ∀ {s}, P s → P (repend s) := by
    intros; assumption
  fn      : ∀ {s} {f : Fn} {x : FnState}, FnWrite s f x → P s → P (s.setFn f x) := by
    intros; assumption
  assign  : ∀ {s} {f : Fn} {ch : Option NodeChannel}, ch.any (channelHeldByOther s (.fn f)) = false → P s →
    P (s.setFn f { s.fn f with assign := ch, status := none, ready := false, lastTx := none, echo := 0 }) := by
    intros; assumption
  sensor  : ∀ {s} {ch : Option NodeChannel}, ch.any (channelHeldByOther s .sensor) = false → P s →
    P { s with fmap := { s.fmap with sensor := ch } } := by
    intros; assumption
  clamped : ∀ {s}, P s → P (clearAllClamped s) := by
    intros; assumption
  super   : ∀ {s} (t : Option Time) (l : Bool), s.active = true ∨ s.mgmt.supTimer ≠ none → P s →
    P { s with mgmt := { s.mgmt with supTimer := t, supLoss := l } } := by
    intros; assumption
  active  : ∀ {s} (t : Option Time), s.mgmt.limits.isSome = true → isRunning s = true → P s →
    P { s with mgmt := { s.mgmt with mode := .active, supTimer := t } } := by
    intros; assumption
  transparent : ∀ {s}, anyHeadWorking s = false → P s → P (enterTransparent s)
  limits  : ∀ {s} (l : LimitBlock), s.mgmt.limits = none → P s → P { s with mgmt := { s.mgmt with limits := some l } } := by
    intros; assumption
  store   : ∀ {s} (x : ParameterStore), (StoreKept s → StoreKept (s.setStore x)) → P s → P (s.setStore x) := by
    intros; assumption
  reset   : ∀ {s}, P s → P (stationResetBlocks s)
  portU   : ∀ {s} (p : PortState), P s → P { s with portU := p } := by
    intros; assumption
  portD   : ∀ {s} (p : PortState), P s → P { s with portD := p } := by
    intros; assumption
  fwd     : ∀ {s} (x : Forwarding), (s.fwd.down.length ≤ Config.downCapacity → x.down.length ≤ Config.downCapacity) →
    (s.fwd.up.length ≤ Config.upCapacity → x.up.length ≤ Config.upCapacity) → P s → P { s with fwd := x } := by
    intros; assumption
  running : ∀ {s}, P s → P { s with base := { s.base with phase := .running } } := by
    intros; assumption

/-! What an operation writes. -/

/-- A write of what the timers' rules do not speak of. -/
theorem SeqWrite.of_eq {s : State} {h : Head} {q : Sequencer} (state : q.state = (s.seq h).state)
    (timer : q.timer = (s.seq h).timer) (gap : q.gap = (s.seq h).gap)
    (current : ∀ c d, q.current = some c → c.interval = some d →
      ∃ c', (s.seq h).current = some c' ∧ c'.interval = some d) : SeqWrite s h q where
  timers kept :=
    { running := by rw [state, timer]; exact kept.running
      frozen := by rw [state, timer]; exact kept.frozen
      expired := by rw [state, timer]; exact kept.expired
      gap := by rw [state, gap]; exact kept.gap
      interval := fun c d stands opened => by
        obtain ⟨c', stands', opened'⟩ := current c d stands opened
        rw [state]
        exact kept.interval c' d stands' opened' }
  works working := by rw [state] at working; exact .inr working

/-- A write that leaves both timers standing still, of a head that may work. -/
theorem SeqWrite.of_rested {s : State} {h : Head} {q : Sequencer} (rest : Rested q)
    (works : q.state.working = true → s.active = true ∨ headWorking s h = true) : SeqWrite s h q :=
  ⟨fun _ => rest.timersKept, works⟩

/-- The new settings are the old ones. -/
theorem SettingsWrite.of_eq {k : SourceId} {old new : Source} (severity : new.severity = old.severity)
    (action : new.action = old.action) : SettingsWrite k old new := ⟨.inl severity, .inl action⟩

/-- The write moves none of assignment, deviation state and echo count. -/
theorem FnWrite.of_eq {s : State} {f : Fn} {x : FnState} (assign : x.assign = (s.fn f).assign)
    (dev : x.dev = (s.fn f).dev) (echo : x.echo = 0 ∨ x.echo = (s.fn f).echo) : FnWrite s f x where
  assign := assign
  dev := by
    by_cases rest : x.dev = .inBand
    · exact .inl rest
    · exact .inr (.inl (dev ▸ rest))
  echo := echo.imp_right .inl

/-- The source a taking run takes next may be taken (R143). -/
theorem takeable_of_nextTaken {s : State} {k : SourceId} (next : nextTaken s = some k) : takeable s k = true := by
  have among : ∀ (ks : List SourceId) (best : Option SourceId), ks.foldl (moreSevere s) best = some k →
      best = some k ∨ k ∈ ks := by
    intro ks
    induction ks with
    | nil => exact fun best e => .inl e
    | cons j ks ih =>
      intro best e
      rcases ih _ e with chosen | later
      · have : best = some k ∨ j = k := by
          unfold moreSevere at chosen
          split at chosen
          · exact .inr (Option.some.inj chosen)
          · split at chosen
            · exact .inr (Option.some.inj chosen)
            · exact .inl chosen
        exact this.imp_right fun same => by rw [same]; exact List.mem_cons_self
      · exact .inr (List.mem_cons_of_mem _ later)
  rcases among _ _ next with none | stands
  · cases none
  · exact (List.mem_filter.mp stands).2

/-- The timers of a head stand still, if the table of 01 section 1.3 holds of it, and no interval is open. -/
structure Resting (q : Sequencer) : Prop where
  timers   : q.timer = .stopped ∧ q.gap = none ∨ q.state ≠ .polishing ∧ q.state ≠ .paused
  interval : ∀ c, q.current = some c → c.interval = none

theorem Resting.rested {q : Sequencer} (rest : Resting q) (kept : TimersKept q) : Rested q := by
  rcases rest.timers with ⟨timer, gap⟩ | ⟨notPolishing, notPaused⟩
  · exact ⟨timer, gap, rest.interval⟩
  · exact kept.rested notPolishing notPaused

theorem Rested.resting {q : Sequencer} (rest : Rested q) : Resting q := ⟨.inl ⟨rest.timer, rest.gap⟩, rest.interval⟩

/-- What a head must meet when its request is decided: it may work, and its timers stand still. -/
structure MayWork (s : State) (h : Head) : Prop where
  able : s.active = true ∨ headWorking s h = true
  rest : Resting (s.seq h)

/-- What a head must meet at step entry: besides, no release hands the pad to it. -/
structure MayEnter (s : State) (h : Head) : Prop extends MayWork s h where
  apart : NotGranted s h

theorem MayEnter.of_seq {s t : State} {h : Head} (may : MayEnter s h) (active : t.active = s.active)
    (waiting : t.arb.waiting = s.arb.waiting) (state : (t.seq h).state = (s.seq h).state)
    (rest : Resting (t.seq h)) : MayEnter t h where
  able := by rw [active, headWorking, state]; exact may.able
  rest := rest
  apart waits := by rw [waiting]; exact may.apart (state ▸ waits)

/-- The sequencer of a head whose step is entered: nothing confirmed, nothing cleared, and a fresh in-progress part (R9). -/
def freshStep (i : Nat) (q : Sequencer) : Sequencer :=
  { q with
    confirm := PerZone.fill 0
    cleared := PerZone.fill false
    current := some { step := i, time := 0, sweeps := 0, interval := none, polished := false } }

theorem Resting.freshStep {q : Sequencer} (i : Nat) (rest : Resting q) : Resting (freshStep i q) where
  timers := rest.timers
  interval c stands := by cases Option.some.inj stands; rfl

/-- The state in which a head asks for its step's pad, or polishes without: its part is fresh, STEP_ENTERED queued (R9). -/
def enteredStep (h : Head) (i : Nat) (s : State) : State :=
  queueEvent .stepEntered (some h) [dv ((s.seq h).position.getD 0), dv i] (s.setSeq h (freshStep i (s.seq h)))

theorem stepEntry_of_step {s : State} {h : Head} {i : Nat} {st : StepRecord} (index : currentIndex (s.seq h) = some i)
    (step : s.currentStep h = some st) :
    stepEntry h s =
      match st.pad with
      | none => polishingEntry h (releasePad h (enteredStep h i s))
      | some e => requestPad h e (enteredStep h i s) := by
  simp only [stepEntry, index, step]
  rfl

@[simp] theorem enteredStep_seq (h : Head) (i : Nat) (s : State) :
    (enteredStep h i s).seq h = freshStep i (s.seq h) := by
  simp [enteredStep, State.seq]

theorem enteredStep_moves (h : Head) (i : Nat) (s : State) : Moves s (enteredStep h i s) :=
  (setSeq_moves h _ s).trans (queueEvent_moves _ _ _ _)

@[simp] theorem enteredStep_arb (h : Head) (i : Nat) (s : State) : (enteredStep h i s).arb = s.arb := by
  have e := congrArg State.arb (queueEvent_only .stepEntered (some h) [dv ((s.seq h).position.getD 0), dv i]
    (s.setSeq h (freshStep i (s.seq h))))
  exact e

theorem MayEnter.enteredStep {s : State} {h : Head} (i : Nat) (may : MayEnter s h) :
    MayEnter (enteredStep h i s) h := by
  refine may.of_seq (enteredStep_moves h i s).active (by rw [enteredStep_arb]) ?_ ?_
  · rw [enteredStep_seq]; rfl
  · rw [enteredStep_seq]; exact may.rest.freshStep i

section Walk

variable {free : Prop} {P : State → Prop} (K : Kept free P)

include K

/-! Events, slots, dosing, conditioner. -/

theorem choicesTaken_kept (n : Nat) {s : State} (p : P s) : P (s.choicesTaken n) := K.choice _ p

theorem queueEvent_kept (kind : EventKind) (head : Option Head) (data : List (BitVec 32)) {s : State} (p : P s) :
    P (queueEvent kind head data s) := by
  unfold queueEvent
  split
  · refine K.events _ _ (fun _ => ?_) p
    rw [List.length_append]
    simpa using ‹s.mgmt.events.length < _›
  · exact K.events s.mgmt.events true id p

theorem writeSlot_kept (f : Fn) (v : Nat) {s : State} (p : P s) : P (writeSlot f v s) := by
  unfold writeSlot
  split
  · exact K.slots _ ‹_› p
  · exact p

theorem writeSlots_kept (ws : List (Fn × Nat)) {s : State} (p : P s) : P (writeSlots ws s) :=
  List.foldlRecOn ws _ p fun _ q w _ => writeSlot_kept K w.1 w.2 q

theorem writeDosing_kept (d : Dose) {s : State} (p : P s) : P (writeDosing d s) := by
  unfold writeDosing
  split
  · exact writeSlots_kept K _ (K.dose _ p)
  · exact p

theorem doseEntry_kept (e n : Nat) {s : State} (p : P s) : P (doseEntry e n s) := writeDosing_kept K _ p

/-- A conditioner whose remainders stay keeps the store's rules. -/
theorem setCdr_kept {c : Conditioner} {s : State} (pad : c.padRem = s.cdr.padRem) (disk : c.diskRem = s.cdr.diskRem)
    (p : P s) : P { s with cdr := c } :=
  K.cdr c (fun k => ⟨k.live, k.record, k.engine, pad.trans_lt k.padRem, disk.trans_lt k.diskRem, k.pending, k.staged⟩) p

theorem setRun_kept (r : Option CondRun) {s : State} (p : P s) : P (s.setRun r) := setCdr_kept K rfl rfl p

theorem enterTravel_kept (run : CondRun) (n : Nat) (seg : Segment) {s : State} (p : P s) :
    P (enterTravel run n seg s) :=
  setRun_kept K _ (writeSlot_kept K _ _ p)

theorem startProgram_kept (k : Nat) {s : State} (p : P s) : P (startProgram k s) := by
  unfold startProgram
  split
  · exact p
  · split
    · exact p
    · exact enterTravel_kept K _ _ _ (writeSlot_kept K _ _ (writeSlot_kept K _ _ p))

theorem conditionEntry_kept (e : Nat) {s : State} (p : P s) : P (conditionEntry e s) := by
  unfold conditionEntry
  split
  · exact startProgram_kept K _ p
  · exact writeSlots_kept K _ p

theorem armStatus_kept (st : NodeStatus) {s : State} (p : P s) : P (armStatus st s) := by
  unfold armStatus
  split
  · exact p
  · split
    · exact p
    · split
      · split
        · exact p
        · exact setRun_kept K _ p
      · exact p

/-! One head: pressures, polishing, pause. -/

theorem commandAll_kept (h : Head) (x : PerArea Nat) {s : State} (p : P s) : P (commandAll h x s) :=
  writeSlots_kept K _ (K.seq (.inr (.of_eq rfl rfl rfl fun c _ stands opened => ⟨c, stands, opened⟩)) p)

theorem writeHoldPressures_kept (h : Head) {s : State} (p : P s) : P (writeHoldPressures h s) := commandAll_kept K h _ p

theorem clearSweeps_kept (h : Head) {s : State} (p : P s) : P (clearSweeps h s) :=
  K.sampler h _ (fun _ => ⟨Nat.zero_le _, .nil, fun _ stands => (nomatch stands), Nat.zero_le _⟩) p

omit K in
/-- The state in which a head begins to polish: base pressures commanded, sweeps and last computation cleared (R11). -/
theorem headWorking_commanded (h : Head) (x : PerArea Nat) (s : State) :
    headWorking ((clearSweeps h (commandAll h x s)).setComp h none) h = headWorking s h := by
  simp [headWorking, State.seq, clearSweeps, commandAll]

omit K in
theorem commanded_moves (h : Head) (x : PerArea Nat) (s : State) :
    Moves s ((clearSweeps h (commandAll h x s)).setComp h none) :=
  ((commandAll_moves h x s).trans (clearSweeps_moves h _)).trans (setComp_moves h none _)

theorem polishingEntry_kept {h : Head} {s : State} (able : free ∨ s.active = true ∨ headWorking s h = true) (p : P s) :
    P (polishingEntry h s) := by
  unfold polishingEntry
  split
  · exact p
  · rename_i st _
    have q := K.comp h none (clearSweeps_kept K h (commandAll_kept K h (basePressures st) p))
    rw [← headWorking_commanded h (basePressures st), ← (commanded_moves h (basePressures st) s).active] at able
    exact K.seq (able.imp_right fun able => ⟨fun _ => timersKept_of_polishing rfl fun _ e => (nomatch e), fun _ => able⟩) q

theorem pauseHead_kept {h : Head} {s : State} (polishing : (s.seq h).state = .polishing) (p : P s) :
    P (pauseHead h s) := by
  refine K.seq (.inr ⟨fun kept => ?_, fun _ => .inr (by simp [headWorking, polishing, HeadState.working])⟩) p
  have thawed : ∀ d, (s.seq h).timer ≠ .frozen d := fun d frozen => by
    simpa [polishing] using kept.frozen d frozen
  constructor
  · intro d runs
    cases timer : (s.seq h).timer <;> simp [closeInterval, freezeTimer, timer] at runs
  · exact fun _ _ => rfl
  · exact fun _ => .inr rfl
  · exact fun _ runs => nomatch runs
  · intro c d stands opened
    obtain ⟨old, _, rfl⟩ := Option.map_eq_some_iff.mp stands
    cases opened

theorem pauseAction_kept (h : Head) {s : State} (p : P s) : P (pauseAction h s) := by
  unfold pauseAction
  split
  · exact pauseHead_kept K ‹_› p
  · exact p

theorem resumeHead_kept {h : Head} {s : State} (paused : (s.seq h).state = .paused) (p : P s) : P (resumeHead h s) := by
  refine K.seq (.inr ⟨fun _ => timersKept_of_polishing rfl fun d frozen => ?_, fun _ => .inr ?_⟩) p
  · cases timer : (s.seq h).timer <;> simp [thawTimer, timer] at frozen
  · simp [headWorking, paused, HeadState.working]

/-! The arbiter. -/

theorem writeIdleValues_kept {s : State} (p : P s) : P (writeIdleValues s) :=
  writeSlots_kept K _ (writeDosing_kept K _ p)

theorem writeHoldValues_kept {s : State} (p : P s) : P (writeHoldValues s) :=
  writeSlots_kept K _ (writeDosing_kept K _ p)

theorem startEntry_kept (h : Head) (e : Nat) {s : State} (p : P s) : P (startEntry h e s) :=
  conditionEntry_kept K e (doseEntry_kept K e 1 (queueEvent_kept K _ _ _ (K.arb _ p)))

theorem grantWaiting_kept (h : Head) {s : State} (p : P s) : P (grantWaiting h s) := by
  unfold grantWaiting
  split
  case isTrue waits => exact polishingEntry_kept K (.inr (.inr (by simp [headWorking, waits, HeadState.working]))) p
  case isFalse => exact p

theorem joinService_kept (h : Head) (g : Grant) {s : State} (p : P s) : P (joinService h g s) :=
  doseEntry_kept K _ _ (queueEvent_kept K _ _ _ (K.arb _ p))

theorem releasePad_kept (h : Head) {s : State} (p : P s) : P (releasePad h s) := by
  unfold releasePad
  split
  · exact p
  · split
    case isFalse => exact p
    case isTrue =>
      dsimp only
      split
      · exact doseEntry_kept K _ _ (K.arb _ p)
      · split
        · exact grantWaiting_kept K _ (startEntry_kept K _ _ (setRun_kept K _ (K.arb _ p)))
        · exact writeIdleValues_kept K (setRun_kept K _ (K.arb _ p))

theorem withdraw_kept (h : Head) {s : State} (p : P s) : P (withdraw h s) := K.arb _ p

theorem enterWaitPad_kept {h : Head} (e : Nat) {s : State} (may : free ∨ MayWork s h) (p : P s) :
    P (enterWaitPad h e s) := by
  have q := writeHoldPressures_kept K h (K.arb { s.arb with waiting := s.arb.waiting ++ [(h, e)] } p)
  have found : (writeHoldPressures h (s.setArb { s.arb with waiting := s.arb.waiting ++ [(h, e)] })).seq h = _ :=
    commandAll_seq h _ _
  refine K.seq (may.imp_right fun may => ⟨fun kept => Rested.timersKept ?_, fun _ => ?_⟩) q
  · rw [found] at kept ⊢
    have still := may.rest.rested ⟨kept.running, kept.frozen, kept.expired, kept.gap, kept.interval⟩
    exact ⟨still.timer, still.gap, still.interval⟩
  · refine may.able.imp (fun active => ?_) (fun works => ?_)
    · exact (writeHoldPressures_moves h _).active.trans active
    · exact (congrArg (fun q : Sequencer => q.state.working) found).trans works

theorem releaseOther_kept (h : Head) (e : Nat) {s : State} (p : P s) : P (releaseOther h e s) := by
  unfold releaseOther
  split
  · exact p
  · exact releasePad_kept K h p

theorem decideRequest_kept {h : Head} (e : Nat) {s : State} (may : free ∨ MayWork s h) (p : P s) :
    P (decideRequest h e s) := by
  have able := may.imp_right MayWork.able
  unfold decideRequest
  split
  · exact enterWaitPad_kept K e may p
  · split
    · refine polishingEntry_kept K ?_ (startEntry_kept K h e p)
      rw [(startEntry_moves h e s).active]
      simpa [headWorking, State.seq] using able
    · split
      · split
        · exact polishingEntry_kept K able p
        · rename_i g _ _ _
          refine polishingEntry_kept K ?_ (joinService_kept K h g p)
          rw [(joinService_moves h g s).active]
          simpa [headWorking, State.seq] using able
      · exact enterWaitPad_kept K e may p

omit K in
/-- A release of another entry leaves the head as it was. -/
theorem MayEnter.releaseOther {s : State} {h : Head} (e : Nat) (may : MayEnter s h) :
    MayWork (releaseOther h e s) h := by
  have found := releaseOther_seq h e may.apart
  constructor
  · rw [(releaseOther_moves h e s).active, headWorking, found]
    exact may.able
  · rw [found]
    exact may.rest

theorem requestPad_kept {h : Head} (e : Nat) {s : State} (may : free ∨ MayEnter s h) (p : P s) : P (requestPad h e s) :=
  decideRequest_kept K e (may.imp_right (MayEnter.releaseOther e)) (releaseOther_kept K h e p)

/-- The heads after HOLD_RELEASED, and the two grants it may bring (R79). -/
theorem joinSecond_kept (e : Nat) {s : State} (p : P s) : P (joinSecond e s) := by
  unfold joinSecond
  split
  · split
    · exact grantWaiting_kept K _ (joinService_kept K _ _ (K.arb _ p))
    · exact p
  · exact p

theorem beginHold_kept {s : State} (p : P s) : P (beginHold s) := by
  unfold beginHold
  split
  · exact writeHoldValues_kept K p
  · exact queueEvent_kept K _ _ _ (writeHoldValues_kept K (setRun_kept K _ (K.arb _ p)))

theorem endHold_kept {s : State} (p : P s) : P (endHold s) := by
  unfold endHold
  split
  · have q := queueEvent_kept K .holdReleased none [] (K.arb { s.arb with hold := false } p)
    dsimp only
    split
    · exact writeIdleValues_kept K q
    · exact joinSecond_kept K _ (grantWaiting_kept K _ (startEntry_kept K _ _ (K.arb _ q)))
  · exact p

/-! Transitions of a head. -/

theorem stepEntry_kept {h : Head} {s : State} (may : free ∨ MayEnter s h) (p : P s) : P (stepEntry h s) := by
  cases index : currentIndex (s.seq h) with
  | none => simpa only [stepEntry, index] using p
  | some i =>
    cases step : s.currentStep h with
    | none => simpa only [stepEntry, index, step] using p
    | some st =>
      have write : SeqWrite s h (freshStep i (s.seq h)) :=
        .of_eq rfl rfl rfl fun c d stands opened => by cases Option.some.inj stands; cases opened
      have entered : P (enteredStep h i s) := queueEvent_kept K _ _ _ (K.seq (.inr write) p)
      have may' : free ∨ MayEnter (enteredStep h i s) h := may.imp_right (MayEnter.enteredStep i)
      rw [stepEntry_of_step index step]
      cases st.pad with
      | some e => exact requestPad_kept K e may' entered
      | none =>
        refine polishingEntry_kept K (may'.imp_right fun may' => ?_) (releasePad_kept K h entered)
        rw [(releasePad_moves h _).active, headWorking, releasePad_seq h may'.apart]
        exact may'.able

theorem raiseWafers_kept {s : State} (p : P s) : P (raiseWafers s) :=
  K.store _ (fun k => ⟨⟨k.live.pad, k.live.disk, k.live.padCount, k.live.diskCount, Nat.min_le_right _ _⟩, k.record,
    k.engine, k.padRem, k.diskRem, k.pending, k.staged⟩) p

omit K in
theorem storeKept_startWearWrite {s : State} (k : StoreKept s) : StoreKept (s.setStore (startWearWrite s.store)) where
  live := k.live
  record := k.record
  engine w o programs := by
    obtain ⟨rfl, _⟩ := (Write.mk.injEq _ _ _ _).mp (Option.some.inj programs) |>.imp Contents.wear.inj id
    exact k.live
  padRem := k.padRem
  diskRem := k.diskRem
  pending marked := nomatch marked
  staged := k.staged

theorem requestWearWrite_kept {s : State} (p : P s) : P (requestWearWrite s) := by
  unfold requestWearWrite
  split
  · exact K.store _ storeKept_startWearWrite p
  · rename_i w programs
    exact K.store _ (fun k => ⟨k.live, k.record, k.engine, k.padRem, k.diskRem, fun _ => by simp [programs],
      k.staged⟩) p

theorem enterDone_kept {h : Head} {s : State} (may : free ∨ Resting (s.seq h) ∧ NotGranted s h) (p : P s) :
    P (enterDone h s) := by
  unfold enterDone
  refine requestWearWrite_kept K (raiseWafers_kept K (queueEvent_kept K _ _ _ (K.seq (may.imp_right fun may =>
    ⟨fun kept => ?_, fun works => nomatch works⟩) (writeHoldPressures_kept K h (releasePad_kept K h p)))))
  obtain ⟨rest, apart⟩ := may
  have found : (writeHoldPressures h (releasePad h s)).seq h = _ := commandAll_seq h _ _
  rw [found, releasePad_seq h apart] at kept ⊢
  have still := rest.rested ⟨kept.running, kept.frozen, kept.expired, kept.gap, kept.interval⟩
  exact Rested.timersKept ⟨still.timer, still.gap, fun _ stands => nomatch stands⟩

end Walk
end Sys2Proof.Machine


namespace Sys2Proof.Machine

/-! The end of a step, abort and the HOLD action, as far as they move the sequencers (R19, R21, R23). -/

/-- The sequencer of a head whose step was closed: timers stopped, interval closed, the result appended (R19). -/
theorem closeStep_seq (h : Head) (cause : EndCause) (s : State) :
    ∃ results, (closeStep h cause s).seq h =
      { closeInterval s.base.time (stopTimers (s.seq h)) with results := results, current := none } := by
  unfold closeStep
  dsimp only
  split
  · rename_i empty
    rw [State.seq_setSeq_same] at empty
    exact ⟨_, by rw [State.seq_setSeq_same, ← empty]⟩
  · exact ⟨_, by rw [queueEvent_seq, State.seq_setSeq_same, State.seq_setSeq_same]⟩

theorem closeStep_seq_rested (h : Head) (cause : EndCause) (s : State) : Rested ((closeStep h cause s).seq h) := by
  obtain ⟨results, found⟩ := closeStep_seq h cause s
  rw [found]
  exact ⟨rfl, rfl, fun _ stands => nomatch stands⟩

@[simp] theorem closeStep_seq_state (h : Head) (cause : EndCause) (s : State) :
    ((closeStep h cause s).seq h).state = (s.seq h).state := by
  obtain ⟨results, found⟩ := closeStep_seq h cause s
  rw [found]; rfl

@[simp] theorem closeStep_seq_program (h : Head) (cause : EndCause) (s : State) :
    ((closeStep h cause s).seq h).program = (s.seq h).program := by
  obtain ⟨results, found⟩ := closeStep_seq h cause s
  rw [found]; rfl

@[simp] theorem closeStep_seq_position (h : Head) (cause : EndCause) (s : State) :
    ((closeStep h cause s).seq h).position = (s.seq h).position := by
  obtain ⟨results, found⟩ := closeStep_seq h cause s
  rw [found]; rfl

@[simp] theorem closeStep_arb (h : Head) (cause : EndCause) (s : State) : (closeStep h cause s).arb = s.arb := by
  unfold closeStep
  dsimp only
  split
  · rfl
  · rw [queueEvent_arb]; rfl

/-- The HOLD action of a head that waits, polishes or is paused (R23). -/
theorem holdAction_of_inStep {h : Head} {s : State} (inStep : (s.seq h).state.inStep = true) :
    holdAction h s = writeHoldPressures h ((leavePad h s).setSeq h
      { closeInterval s.base.time (stopTimers (s.seq h)) with state := .hold }) := by
  unfold holdAction
  split
  case h_4 notWaiting notPolishing notPaused =>
    cases state : (s.seq h).state <;> simp_all [HeadState.inStep]
  all_goals
    dsimp only
    rw [leavePad_seq_same, (leavePad_moves h s).base]

theorem holdAction_of_not_inStep {h : Head} {s : State} (out : (s.seq h).state.inStep = false) :
    holdAction h s = s := by
  unfold holdAction
  split
  case h_4 => rfl
  all_goals simp_all [HeadState.inStep]

theorem holdAction_seq_of_inStep {h : Head} {s : State} (inStep : (s.seq h).state.inStep = true) :
    (holdAction h s).seq h = { closeInterval s.base.time (stopTimers (s.seq h)) with
      state := .hold
      commanded := PerArea.tabulate fun x =>
        some ((holdPressures ((leavePad h s).setSeq h
          { closeInterval s.base.time (stopTimers (s.seq h)) with state := .hold }).lim).get x) } := by
  rw [holdAction_of_inStep inStep, writeHoldPressures, commandAll_seq, State.seq_setSeq_same]

/-- The HOLD action of one head leaves a head that does not wait (R23). -/
theorem holdAction_seq_of_state {h k : Head} {s : State} (other : h ≠ k) (notWaiting : (s.seq h).state ≠ .waitPad) :
    (holdAction k s).seq h = s.seq h := by
  cases inStep : (s.seq k).state.inStep with
  | false => rw [holdAction_of_not_inStep inStep]
  | true =>
    rw [holdAction_of_inStep inStep, writeHoldPressures, commandAll_seq_of_ne _ _ other,
      State.seq_setSeq_of_ne _ _ other, leavePad_seq_of_state k notWaiting]

/-- A head in a sweep close: it works without waiting, or a station reset has taken its position (R51, R29). -/
structure InClose (s : State) (h : Head) : Prop where
  apart : (s.seq h).state ≠ .waitPad
  place : headWorking s h = true ∨ (s.seq h).position = none

theorem InClose.of_seq {s t : State} {h : Head} (close : InClose s h) (state : (t.seq h).state = (s.seq h).state)
    (position : (t.seq h).position = (s.seq h).position) : InClose t h where
  apart := by rw [state]; exact close.apart
  place := by rw [headWorking, state, position]; exact close.place

theorem pauseAction_inClose {h : Head} (k : Head) {s : State} (close : InClose s h) : InClose (pauseAction k s) h := by
  unfold pauseAction
  split
  case isFalse => exact close
  case isTrue polishing =>
    by_cases same : h = k
    · subst same
      have found : (pauseHead h s).seq h = _ := State.seq_setSeq_same _ _ _
      exact ⟨by rw [found]; simp, .inl (by rw [headWorking, found]; rfl)⟩
    · have found : (pauseHead k s).seq h = s.seq h := State.seq_setSeq_of_ne _ _ same
      exact close.of_seq (by rw [found]) (by rw [found])

theorem holdAction_inClose {h : Head} (k : Head) {s : State} (close : InClose s h) : InClose (holdAction k s) h := by
  by_cases same : h = k
  · subst same
    cases inStep : (s.seq h).state.inStep with
    | false => rw [holdAction_of_not_inStep inStep]; exact close
    | true =>
      have found := holdAction_seq_of_inStep inStep
      exact ⟨by rw [found]; simp, .inl (by rw [headWorking, found]; rfl)⟩
  · have found := holdAction_seq_of_state same close.apart
    exact close.of_seq (by rw [found]) (by rw [found])

theorem applyAction_inClose {h : Head} (k : SourceId) {s : State} (close : InClose s h) : InClose (applyAction k s) h := by
  unfold applyAction
  split
  · exact pauseAction_inClose _ close
  · exact pauseAction_inClose _ (pauseAction_inClose _ close)
  · exact holdAction_inClose _ close
  · refine holdAction_inClose _ (holdAction_inClose _ (close.of_seq ?_ ?_)) <;> simp [State.seq]
  · exact close
  · exact close

theorem takeSource_seqs (k : SourceId) (s : State) : (takeSource k s).seqs = s.seqs := by
  have e := congrArg State.seqs (takeSource_only k s); exact e

theorem takeSource_inClose {h : Head} (k : SourceId) {s : State} (close : InClose s h) : InClose (takeSource k s) h := by
  have found := State.seq_of_seqs (takeSource_seqs k s) h
  exact close.of_seq (by rw [found]) (by rw [found])

/-- A predicate that the taking, the actions and the reset keep is kept by a taking run (R143). -/
theorem takingRunWith_induction {Q : State → Prop} {act reset : SourceId → State → State}
    (take : ∀ k s, nextTaken s = some k → Q s → Q (takeSource k s)) (acts : ∀ k s, Q s → Q (act k s))
    (resets : ∀ k s, Q s → Q (reset k s)) (fuel : Nat) {s : State} (q : Q s) : Q (takingRunWith act reset fuel s) := by
  induction fuel generalizing s with
  | zero => exact q
  | succ fuel ih =>
    unfold takingRunWith
    split
    · exact q
    · rename_i k next
      split
      · exact resets k _ (take k s next q)
      · exact ih (acts k _ (take k s next q))

theorem takingRunTransparent_inClose {h : Head} {s : State} (close : InClose s h) :
    InClose (takingRunTransparent s) h :=
  takingRunWith_induction (Q := fun t => InClose t h) (fun k _ _ => takeSource_inClose k)
    (fun k _ => applyAction_inClose k) (fun _ _ q => q) takingFuel close

/-- A predicate that the taking run and writes of the condition unit keep is kept by a report of presence (R141). -/
theorem beginPresenceWith_induction {Q : State → Prop} {run : State → State} (runs : ∀ s, Q s → Q (run s))
    (writes : ∀ s x, Q s → Q { s with cu := x }) (k : SourceId) (d : Option SourceData) {s : State} (q : Q s) :
    Q (beginPresenceWith run k d s) := by
  unfold beginPresenceWith
  dsimp only
  split
  · exact q
  · split
    · exact writes s _ q
    · exact runs _ (writes s _ q)

theorem losePresence_seqs (k : SourceId) (s : State) : (losePresence k s).seqs = s.seqs := by
  have e := congrArg State.seqs (losePresence_only k s); exact e

theorem resetItem_inClose {h : Head} (cause : List (BitVec 32)) {s : State} (item : ResetItem) (close : InClose s h) :
    InClose (resetItem cause s item) h := by
  have reports : ∀ k d {t : State}, InClose t h → InClose (beginPresenceWith takingRunTransparent k d t) h :=
    fun k d _ => beginPresenceWith_induction (Q := fun t => InClose t h) (fun _ => takingRunTransparent_inClose)
      (fun _ _ q => ⟨q.apart, q.place⟩) k d
  have loses : ∀ k {t : State}, InClose t h → InClose (losePresence k t) h := fun k t q => by
    have found := State.seq_of_seqs (losePresence_seqs k t) h
    exact q.of_seq (by rw [found]) (by rw [found])
  cases item with
  | record => exact close.of_seq (by simp [resetItem]) (by simp [resetItem])
  | portLoss => exact reports _ _ close
  | padWear =>
    simp only [resetItem, evaluatePadWith]
    split
    · exact reports _ _ ⟨close.apart, close.place⟩
    · split
      · exact loses _ ⟨close.apart, close.place⟩
      · exact close
  | diskWear =>
    simp only [resetItem, evaluateDiskWith]
    split
    · exact reports _ _ ⟨close.apart, close.place⟩
    · split
      · exact loses _ ⟨close.apart, close.place⟩
      · exact close

theorem stationReset_inClose (cause : List (BitVec 32)) (s : State) (h : Head) : InClose (stationReset cause s) h := by
  have start : InClose (stationResetBlocks s) h := by
    have found : ((stationResetBlocks s).seq h) = stationResetSequencer (s.seq h) := by cases h <;> rfl
    refine ⟨?_, .inr (by rw [found]; rfl)⟩
    rw [found]
    unfold stationResetSequencer
    dsimp only
    split <;> simp
  exact List.foldlRecOn _ _ (motive := fun t => InClose t h) ⟨start.apart, start.place⟩
    fun _ q item _ => resetItem_inClose cause item q

theorem takingRunInClose_inClose {h : Head} {s : State} (close : InClose s h) : InClose (takingRunInClose s) h := by
  refine takingRunWith_induction (Q := fun t => InClose t h) (fun k _ _ => takeSource_inClose k) (fun k t q => ?_)
    (fun k t _ => stationReset_inClose _ t h) takingFuel close
  unfold deferLimitAction
  split
  · exact q
  · exact applyAction_inClose k q

/-! ## The walk: heads, conditions and reset -/

section Walk

variable {free : Prop} {P : State → Prop} (K : Kept free P)

include K

theorem closeStep_kept (h : Head) (cause : EndCause) {s : State} (p : P s) : P (closeStep h cause s) := by
  have stopped := K.seq (h := h) (q := closeInterval s.base.time (stopTimers (s.seq h)))
    (.inr (.of_rested (rested_stopped _ _) fun works => .inr works)) p
  unfold closeStep
  dsimp only
  split
  · exact stopped
  · exact queueEvent_kept K _ _ _ (K.seq (.inr (.of_eq rfl rfl rfl fun _ _ stands => nomatch stands)) stopped)

omit K in
/-- What a head must meet at the end of its step, where it may stand without a position after a station reset. -/
structure MayEnd (s : State) (h : Head) : Prop where
  place : headWorking s h = true ∨ (s.seq h).position = none
  apart : NotGranted s h

omit K in
theorem MayEnd.closed {s : State} {h : Head} (cause : EndCause) (may : MayEnd s h) :
    NotGranted (closeStep h cause s) h := fun waits => by
  rw [closeStep_arb]
  exact may.apart (by rwa [closeStep_seq_state] at waits)

omit K in
theorem MayEnd.next {s : State} {h : Head} {cause : EndCause} {n : Nat} (m : Nat) (may : MayEnd s h)
    (position : ((closeStep h cause s).seq h).position = some n) :
    MayEnter ((closeStep h cause s).setSeq h { (closeStep h cause s).seq h with position := some m }) h := by
  have rest := closeStep_seq_rested h cause s
  rw [closeStep_seq_position] at position
  refine ⟨⟨.inr ?_, ?_⟩, ?_⟩
  · rw [headWorking, State.seq_setSeq_same]
    show ((closeStep h cause s).seq h).state.working = true
    rw [closeStep_seq_state]
    exact may.place.resolve_right (by simp [position])
  · rw [State.seq_setSeq_same]
    exact ⟨.inl ⟨rest.timer, rest.gap⟩, rest.interval⟩
  · intro waits
    rw [State.seq_setSeq_same] at waits
    exact may.closed cause waits

theorem endStep_kept {h : Head} (cause : EndCause) {s : State} (may : free ∨ MayEnd s h) (p : P s) :
    P (endStep h cause s) := by
  have closed := closeStep_kept K h cause p
  have rest := closeStep_seq_rested h cause s
  unfold endStep
  dsimp only
  split
  case h_2 => exact closed
  case h_1 program n _ position =>
    split
    · exact stepEntry_kept K (may.imp_right fun may => may.next (n + 1) position)
        (K.seq (.inr (.of_rested ⟨rest.timer, rest.gap, rest.interval⟩ fun w => .inr w)) closed)
    · exact enterDone_kept K (may.imp_right fun may => ⟨rest.resting, may.closed cause⟩) closed

theorem leavePad_kept (h : Head) {s : State} (p : P s) : P (leavePad h s) := by
  unfold leavePad
  split
  · exact withdraw_kept K h p
  · exact releasePad_kept K h p

theorem abortHead_kept (h : Head) {s : State} (p : P s) : P (abortHead h s) := by
  have left := writeHoldPressures_kept K h (leavePad_kept K h p)
  have aborted := K.seq (h := h) (q := { closeInterval (writeHoldPressures h (leavePad h s)).base.time
      (stopTimers ((writeHoldPressures h (leavePad h s)).seq h)) with state := .aborted })
    (.inr (.of_rested ⟨rfl, rfl, (rested_stopped _ _).interval⟩ fun works => nomatch works)) left
  unfold abortHead
  dsimp only
  split
  · exact aborted
  · exact K.seq (.inr (.of_eq rfl rfl rfl fun _ _ stands => nomatch stands)) (queueEvent_kept K _ _ _ aborted)

theorem abortIfWorking_kept (h : Head) {s : State} (p : P s) : P (abortIfWorking h s) := by
  unfold abortIfWorking
  split
  · exact abortHead_kept K h p
  · exact p

theorem holdAction_kept (h : Head) {s : State} (p : P s) : P (holdAction h s) := by
  cases inStep : (s.seq h).state.inStep with
  | false => rw [holdAction_of_not_inStep inStep]; exact p
  | true =>
    rw [holdAction_of_inStep inStep]
    refine writeHoldPressures_kept K h (K.seq
      (.inr (.of_rested ⟨rfl, rfl, (rested_stopped _ _).interval⟩ fun _ => .inr ?_)) (leavePad_kept K h p))
    rw [headWorking, leavePad_seq_same]
    cases state : (s.seq h).state <;> simp_all [HeadState.inStep, HeadState.working]

theorem skipStep_kept {h : Head} {s : State} (inStep : (s.seq h).state.inStep = true) (p : P s) : P (skipStep h s) := by
  have works : headWorking s h = true := by
    unfold headWorking
    cases state : (s.seq h).state <;> simp_all [HeadState.inStep, HeadState.working]
  unfold skipStep
  split
  · exact endStep_kept K .skip (.inr ⟨.inl works, NotGranted.withdraw s h⟩) (withdraw_kept K h p)
  · exact endStep_kept K .skip (.inr ⟨.inl works, NotGranted.of_state ‹_›⟩) p

theorem startHead_kept {h : Head} {s : State} (active : s.active = true) (startable : (s.seq h).state.startable = true)
    (p : P s) : P (startHead h s) := by
  refine stepEntry_kept K (.inr ⟨⟨.inl active, ?_⟩, NotGranted.of_state ?_⟩)
    (K.seq (.inr (.of_eq rfl rfl rfl fun _ _ stands => nomatch stands)) p)
  · rw [State.seq_setSeq_same]
    refine ⟨.inr ⟨?_, ?_⟩, fun _ stands => nomatch stands⟩ <;> intro state <;> dsimp only at state <;>
      simp [state, HeadState.startable] at startable
  · rw [State.seq_setSeq_same]
    intro state
    dsimp only at state
    simp [state, HeadState.startable] at startable

theorem applyAction_kept (k : SourceId) {s : State} (p : P s) : P (applyAction k s) := by
  unfold applyAction
  split
  · exact pauseAction_kept K _ p
  · exact pauseAction_kept K _ (pauseAction_kept K _ p)
  · exact holdAction_kept K _ p
  · exact holdAction_kept K _ (holdAction_kept K _ (beginHold_kept K p))
  · exact p
  · exact p

/-! Conditions and station reset. -/

theorem takeSource_kept {k : SourceId} {s : State} (take : takeable s k = true) (p : P s) : P (takeSource k s) := by
  unfold takeSource
  dsimp only
  split
  · exact K.raise take p
  · exact queueEvent_kept K _ _ _ (K.raise take p)

theorem takingRunWith_kept {act reset : SourceId → State → State} (acts : ∀ k s, P s → P (act k s))
    (resets : ∀ k s, P s → P (reset k s)) (fuel : Nat) {s : State} (p : P s) : P (takingRunWith act reset fuel s) :=
  takingRunWith_induction (fun _ _ next => takeSource_kept K (takeable_of_nextTaken next)) acts resets fuel p

theorem takingRunTransparent_kept {s : State} (p : P s) : P (takingRunTransparent s) :=
  takingRunWith_kept K (fun k _ => applyAction_kept K k) (fun _ _ p => p) takingFuel p

theorem occurrenceWith_kept {run : State → State} (runs : ∀ s, P s → P (run s)) (k : SourceId) (d : SourceData)
    {s : State} (p : P s) : P (occurrenceWith run k d s) := by
  unfold occurrenceWith
  split
  · exact runs _ (K.source (.of_eq rfl rfl) p)
  · exact p
  · exact p

theorem beginPresenceWith_kept {run : State → State} (runs : ∀ s, P s → P (run s)) (k : SourceId)
    (d : Option SourceData) {s : State} (p : P s) : P (beginPresenceWith run k d s) := by
  unfold beginPresenceWith
  dsimp only
  split
  · exact p
  · split
    · exact K.source (.of_eq rfl rfl) p
    · exact runs _ (K.source (.of_eq rfl rfl) p)

theorem beginSimulationWith_kept {run : State → State} (runs : ∀ s, P s → P (run s)) (k : SourceId) (v : Nat)
    {s : State} (p : P s) : P (beginSimulationWith run k v s) := by
  unfold beginSimulationWith
  dsimp only
  split
  · exact p
  · split
    · exact K.source (.of_eq rfl rfl) p
    · exact runs _ (K.source (.of_eq rfl rfl) p)

theorem losePresence_kept (k : SourceId) {s : State} (p : P s) : P (losePresence k s) := by
  unfold losePresence
  dsimp only
  split
  · split <;> exact K.source (.of_eq rfl rfl) p
  · exact p

theorem endSimulation_kept (k : SourceId) {s : State} (p : P s) : P (endSimulation k s) := by
  unfold endSimulation
  dsimp only
  split <;> exact K.source (.of_eq rfl rfl) p

theorem evaluatePadWith_kept {run : State → State} (runs : ∀ s, P s → P (run s)) {s : State} (p : P s) :
    P (evaluatePadWith run s) := by
  unfold evaluatePadWith
  dsimp only
  split
  · exact beginPresenceWith_kept K runs _ _ (setCdr_kept K rfl rfl p)
  · split
    · exact losePresence_kept K _ (setCdr_kept K rfl rfl p)
    · exact p

theorem evaluateDiskWith_kept {run : State → State} (runs : ∀ s, P s → P (run s)) {s : State} (p : P s) :
    P (evaluateDiskWith run s) := by
  unfold evaluateDiskWith
  dsimp only
  split
  · exact beginPresenceWith_kept K runs _ _ (setCdr_kept K rfl rfl p)
  · split
    · exact losePresence_kept K _ (setCdr_kept K rfl rfl p)
    · exact p

theorem resetItem_kept (cause : List (BitVec 32)) (item : ResetItem) {s : State} (p : P s) :
    P (resetItem cause s item) := by
  have runs : ∀ s, P s → P (takingRunTransparent s) := fun _ => takingRunTransparent_kept K
  cases item with
  | record => exact queueEvent_kept K _ _ _ p
  | portLoss => exact beginPresenceWith_kept K runs _ _ p
  | padWear => exact evaluatePadWith_kept K runs p
  | diskWear => exact evaluateDiskWith_kept K runs p

theorem stationReset_kept (cause : List (BitVec 32)) {s : State} (p : P s) : P (stationReset cause s) :=
  List.foldlRecOn _ _ (motive := P) (choicesTaken_kept K _ (K.reset p)) fun _ q item _ =>
    resetItem_kept K cause item q

theorem takingRun_kept {s : State} (p : P s) : P (takingRun s) :=
  takingRunWith_kept K (fun k _ => applyAction_kept K k) (fun _ _ => stationReset_kept K _) takingFuel p

theorem takingRunInClose_kept {s : State} (p : P s) : P (takingRunInClose s) := by
  refine takingRunWith_kept K (fun k t q => ?_) (fun _ _ => stationReset_kept K _) takingFuel p
  unfold deferLimitAction
  split
  · exact q
  · exact applyAction_kept K k q

theorem occurrence_kept (k : SourceId) (d : SourceData) {s : State} (p : P s) : P (occurrence k d s) :=
  occurrenceWith_kept K (fun _ => takingRun_kept K) k d p

theorem beginPresence_kept (k : SourceId) (d : Option SourceData) {s : State} (p : P s) : P (beginPresence k d s) :=
  beginPresenceWith_kept K (fun _ => takingRun_kept K) k d p

theorem evaluateWear_kept {s : State} (p : P s) : P (evaluateWear s) := by
  have pad : ∀ {t}, P t → P (evaluatePadWith takingRun t) := evaluatePadWith_kept K fun _ => takingRun_kept K
  have disk : ∀ {t}, P t → P (evaluateDiskWith takingRun t) := evaluateDiskWith_kept K fun _ => takingRun_kept K
  unfold evaluateWear
  split
  · exact pad (disk (choicesTaken_kept K 1 p))
  · refine disk (pad ?_)
    split
    · exact choicesTaken_kept K 1 p
    · exact p

theorem levelFell_kept (old : Nat) {s : State} (p : P s) : P (levelFell old s) := by
  unfold levelFell
  split
  · exact takingRun_kept K (K.repend p)
  · exact p

theorem becomeDeviated_kept {f : Fn} {s : State} (dwells : (s.fn f).dev ≠ .inBand) (p : P s) : P (becomeDeviated f s) := by
  have deviated := K.fn (x := { s.fn f with dev := .deviated }) ⟨rfl, .inr (.inl dwells), .inr (.inl rfl)⟩ p
  unfold becomeDeviated
  dsimp only
  split
  · exact deviated
  · split
    · exact deviated
    · exact beginPresence_kept K _ _ deviated

theorem returnInBand_kept (f : Fn) {s : State} (p : P s) : P (returnInBand f s) := by
  have rests := K.fn (x := { s.fn f with dev := .inBand }) ⟨rfl, .inl rfl, .inr (.inl rfl)⟩ p
  unfold returnInBand
  dsimp only
  split
  · exact rests
  · split
    · exact losePresence_kept K _ rests
    · exact rests

end Walk

end Sys2Proof.Machine


/-! ## The walk: sweep closes, samples, status records and frames -/

namespace Sys2Proof.Machine

/-- The order of endpoint, control and step end in a close, with the sample-gap timer and the sweep count first (R51). -/
theorem polishingClose_eq (h : Head) (st : StepRecord) (n : SweepRecord) (s : State) :
    polishingClose h st n s = actionAfterClose (s.source .limitReached).state
      (endAtEndpoint h st (evaluateEndpoint h st n (restartGap h st (recordSweep h n s))).2
        (runControl h st n (evaluateEndpoint h st n (restartGap h st (recordSweep h n s))).1)) := rfl

section Walk

variable {free : Prop} {P : State → Prop} (K : Kept free P)

/-- In a close the predicate holds and the head is in the close. -/
def CloseKept (P : State → Prop) (h : Head) (s : State) : Prop := P s ∧ InClose s h

include K

/-- A write of what neither timers nor place speak of. -/
theorem setSeq_closeKept {h : Head} {q : Sequencer} {s : State} (state : q.state = (s.seq h).state)
    (position : q.position = (s.seq h).position) (timer : q.timer = (s.seq h).timer) (gap : q.gap = (s.seq h).gap)
    (current : q.current = (s.seq h).current) (c : CloseKept P h s) : CloseKept P h (s.setSeq h q) :=
  ⟨K.seq (.inr (.of_eq state timer gap fun x _ stands opened => ⟨x, current ▸ stands, opened⟩)) c.1,
    c.2.of_seq (by rw [State.seq_setSeq_same, state]) (by rw [State.seq_setSeq_same, position])⟩

theorem queueEvent_closeKept (kind : EventKind) (head : Option Head) (data : List (BitVec 32)) {h : Head} {s : State}
    (c : CloseKept P h s) : CloseKept P h (queueEvent kind head data s) :=
  ⟨queueEvent_kept K _ _ _ c.1, c.2.of_seq (by rw [queueEvent_seq]) (by rw [queueEvent_seq])⟩

theorem writeSlot_closeKept (f : Fn) (v : Nat) {h : Head} {s : State} (c : CloseKept P h s) :
    CloseKept P h (writeSlot f v s) :=
  ⟨writeSlot_kept K _ _ c.1, c.2.of_seq (by rw [writeSlot_seq]) (by rw [writeSlot_seq])⟩

theorem clearZone_closeKept {h : Head} (st : StepRecord) (z : Zone) (cleared : Option Nat) {s : State}
    (c : CloseKept P h s) : CloseKept P h (clearZone h st z cleared s) := by
  have queued := queueEvent_closeKept K .zoneCleared (some h) [dv (zoneCode z)]
    (setSeq_closeKept K (q := { s.seq h with cleared := (s.seq h).cleared.set z true }) rfl rfl rfl rfl rfl c)
  unfold clearZone
  dsimp only
  split
  · exact queued
  · split
    · exact queued
    · exact writeSlot_closeKept K _ _ (setSeq_closeKept K rfl rfl rfl rfl rfl queued)

theorem visitZone_closeKept {h : Head} (st : StepRecord) (e : EndpointSection) (r : SweepRecord) (z : Zone) {s : State}
    (c : CloseKept P h s) : CloseKept P h (visitZone h st e r s z) := by
  have confirmed := fun n => setSeq_closeKept K (q := { s.seq h with confirm := (s.seq h).confirm.set z n })
    rfl rfl rfl rfl rfl c
  unfold visitZone
  split
  · dsimp only
    split
    · exact c
    · split
      · split
        · exact clearZone_closeKept K st z _ (confirmed _)
        · exact confirmed _
      · exact confirmed _
  · exact c

theorem evaluateEndpoint_closeKept {h : Head} (st : StepRecord) (r : SweepRecord) {s : State} (c : CloseKept P h s) :
    CloseKept P h (evaluateEndpoint h st r s).1 := by
  unfold evaluateEndpoint
  split
  · exact c
  · rename_i e _
    have visited : CloseKept P h (visitZones h st e r s) :=
      List.foldlRecOn _ _ (motive := CloseKept P h) c fun _ q z _ => visitZone_closeKept K st e r z q
    dsimp only
    split
    · exact queueEvent_closeKept K _ _ _ visited
    · exact visited

theorem occurrenceInClose_closeKept (k : SourceId) (d : SourceData) {h : Head} {s : State} (c : CloseKept P h s) :
    CloseKept P h (occurrenceWith takingRunInClose k d s) := by
  refine ⟨occurrenceWith_kept K (fun _ => takingRunInClose_kept K) k d c.1, ?_⟩
  unfold occurrenceWith
  split
  · exact takingRunInClose_inClose ⟨c.2.apart, c.2.place⟩
  · exact c.2
  · exact c.2

theorem correctZone_closeKept {h : Head} (z : Zone) (p : Nat) (k : Correction) {s : State} (c : CloseKept P h s) :
    CloseKept P h (correctZone h z p k s) := by
  have reported : CloseKept P h
      (if k.clamped then occurrenceWith takingRunInClose .limitReached (.limit h z k.unclamped) s else s) := by
    split
    · exact occurrenceInClose_closeKept K _ _ c
    · exact c
  unfold correctZone
  dsimp only
  generalize (if k.clamped then occurrenceWith takingRunInClose .limitReached (.limit h z k.unclamped) s else s) = t
    at reported
  split
  · exact reported
  · exact writeSlot_closeKept K _ _ (setSeq_closeKept K rfl rfl rfl rfl rfl reported)

theorem setComp_closeKept {h : Head} (x : Option Computation) {s : State} (c : CloseKept P h s) :
    CloseKept P h (s.setComp h x) := ⟨K.comp h x c.1, ⟨c.2.apart, c.2.place⟩⟩

theorem runControl_closeKept {h : Head} (st : StepRecord) (n : SweepRecord) {s : State} (c : CloseKept P h s) :
    CloseKept P h (runControl h st n s) := by
  unfold runControl
  split
  · unfold controlZones
    dsimp only
    split
    · refine setComp_closeKept K _ (List.foldlRecOn _ _ (motive := CloseKept P h) c fun _ q z _ => ?_)
      split
      · exact q
      · exact correctZone_closeKept K _ _ _ q
    · exact setComp_closeKept K _ c
  · exact c

theorem recordSweep_kept (h : Head) (n : SweepRecord) {s : State} (p : P s) : P (recordSweep h n s) := by
  refine K.seq (.inr (.of_eq rfl rfl rfl fun c d stands opened => ?_)) p
  obtain ⟨old, found, rfl⟩ := Option.map_eq_some_iff.mp stands
  exact ⟨old, found, opened⟩

theorem polishingClose_kept {h : Head} (st : StepRecord) (n : SweepRecord) {s : State}
    (polishing : (s.seq h).state = .polishing) (p : P s) : P (polishingClose h st n s) := by
  have recorded : ((recordSweep h n s).seq h).state = .polishing := by
    rw [recordSweep, State.seq_setSeq_same]; exact polishing
  have restarted : P (restartGap h st (recordSweep h n s)) ∧
      ((restartGap h st (recordSweep h n s)).seq h).state = .polishing := by
    unfold restartGap
    split
    · refine ⟨K.seq (.inr ⟨fun kept => ?_, fun _ => .inr ?_⟩) (recordSweep_kept K h n p), ?_⟩
      · exact ⟨kept.running, kept.frozen, kept.expired, fun _ _ => recorded, kept.interval⟩
      · rw [headWorking, recorded]; rfl
      · rw [State.seq_setSeq_same]; exact recorded
    · exact ⟨recordSweep_kept K h n p, recorded⟩
  obtain ⟨restarted, state⟩ := restarted
  have started : CloseKept P h (restartGap h st (recordSweep h n s)) :=
    ⟨restarted, ⟨by rw [state]; decide, .inl (by rw [headWorking, state]; rfl)⟩⟩
  have controlled := runControl_closeKept K st n (evaluateEndpoint_closeKept K st n started)
  rw [polishingClose_eq]
  generalize runControl h st n _ = t at controlled
  have ended : ∀ reached, P (endAtEndpoint h st reached t) := fun reached => by
    unfold endAtEndpoint
    split
    · exact endStep_kept K _ (.inr ⟨controlled.2.place, NotGranted.of_state controlled.2.apart⟩) controlled.1
    · exact controlled.1
  unfold actionAfterClose
  split
  · exact applyAction_kept K _ (ended _)
  · exact ended _

theorem handClose_kept (h : Head) (n : SweepRecord) {s : State} (p : P s) : P (handClose h n s) := by
  unfold handClose
  split
  · split
    · exact p
    · exact polishingClose_kept K _ n ‹_› p
  · exact recordSweep_kept K h n p
  all_goals exact p

/-! Samples. -/

omit K in
/-- A record appended with the next number keeps a history in order (R45, R46). -/
theorem historyOrdered_append {p : Sampler} {r : SweepRecord} (kept : HistoryOrdered p)
    (number : r.number = p.counter + 1) (room : p.counter + 1 ≤ Config.longMax) (z : Option (List (Option Zone))) :
    HistoryOrdered { zoneMap := z, openSweep := none, counter := p.counter + 1
                     history := appendHistory p.history r } := by
  have rises : ((p.history ++ [r]).map SweepRecord.number).Pairwise (· < ·) := by
    rw [List.map_append, List.pairwise_append]
    refine ⟨kept.rising, List.pairwise_singleton _ _, fun a ha b hb => ?_⟩
    obtain ⟨x, stands, rfl⟩ := List.mem_map.mp ha
    obtain rfl : b = r.number := by simpa using hb
    have := kept.below x stands
    omega
  have bounded : ∀ x ∈ p.history ++ [r], x.number ≤ p.counter + 1 := fun x stands => by
    rcases List.mem_append.mp stands with old | new
    · exact (kept.below x old).trans (Nat.le_succ _)
    · rw [List.mem_singleton.mp new, number]
  have short := kept.short
  constructor
  · simp only [appendHistory]
    split <;> simp_all [Config.historyCapacity]
  · simp only [appendHistory]
    split
    · rw [List.map_drop]; exact rises.sublist (List.drop_sublist _ _)
    · exact rises
  · intro x stands
    simp only [appendHistory] at stands
    split at stands
    · exact bounded x (List.mem_of_mem_drop stands)
    · exact bounded x stands
  · exact room

omit K in
/-- The first record after the counter's end stands alone with number 1 (R45). -/
theorem historyOrdered_first {r : SweepRecord} (number : r.number = 1) (z : Option (List (Option Zone))) :
    HistoryOrdered { zoneMap := z, openSweep := none, counter := 1, history := appendHistory [] r } where
  short := by simp [appendHistory, Config.historyCapacity]
  rising := by simp [appendHistory, Config.historyCapacity]
  below x stands := by
    obtain rfl : x = r := by simpa [appendHistory, Config.historyCapacity] using stands
    exact number.le
  count := show 1 ≤ Config.longMax by decide

theorem closeSweep_kept (h : Head) (sweep : PerZone ZoneSum) {s : State} (p : P s) : P (closeSweep h sweep s) := by
  refine handClose_kept K h _ (K.sampler h _ (fun kept => ?_) p)
  by_cases atEnd : (s.sampler h).counter = Config.longMax
  · simp only [atEnd, decide_true, if_true]
    exact historyOrdered_first rfl _
  · simp only [atEnd, decide_false, Bool.false_eq_true, if_false]
    have count := kept.count
    exact historyOrdered_append kept rfl (by omega) _

/-- The open sweep is not spoken of by the order of the history. -/
theorem setOpenSweep_kept (h : Head) (x : Option (PerZone ZoneSum)) {s : State} (p : P s) :
    P (s.setSampler h { s.sampler h with openSweep := x }) :=
  K.sampler h _ (fun kept => ⟨kept.short, kept.rising, kept.below, kept.count⟩) p

theorem discardOpenSweeps_kept {s : State} (p : P s) : P (discardOpenSweeps s) :=
  setOpenSweep_kept K .b none (setOpenSweep_kept K .a none p)

theorem takeSample_kept (r : SampleRecord) {s : State} (p : P s) : P (takeSample s r) := by
  unfold takeSample
  split
  · split
    · exact p
    · unfold actPosition
      dsimp only
      split
      · exact setOpenSweep_kept K _ _ p
      · exact setOpenSweep_kept K _ _ p
      · exact closeSweep_kept K _ _ p
      · exact p
      · exact p
  · exact p

theorem takeSamples_kept (frame : List Byte) {s : State} (p : P s) : P (takeSamples frame s) := by
  unfold takeSamples
  split
  · split
    · exact p
    · exact List.foldlRecOn _ _ (motive := P) p fun _ q r _ => takeSample_kept K r q
  · exact p

/-! Status records. -/

theorem echoCheck_kept (f : Fn) (st : NodeStatus) {s : State} (active : s.active = true) (p : P s) :
    P (echoCheck f st s) := by
  have zeroed := K.fn (f := f) (x := { s.fn f with echo := 0 }) (.of_eq rfl rfl (.inl rfl)) p
  unfold echoCheck
  split
  · exact p
  · split
    · split
      · exact zeroed
      · split
        · exact K.fn ⟨rfl, .inr (.inr active), .inr (.inr active)⟩ p
        · exact occurrence_kept K _ _ zeroed
    · exact p

theorem monitorDeviation_kept (f : Fn) (st : NodeStatus) {s : State} (active : s.active = true) (p : P s) :
    P (monitorDeviation f st s) := by
  unfold monitorDeviation
  split
  · split
    · exact K.fn ⟨rfl, .inr (.inr active), .inr (.inr active)⟩ p
    · exact p
    · exact p
  · split
    · exact p
    · exact returnInBand_kept K f p
    · exact returnInBand_kept K f p

theorem takeStatus_kept (node : Nat) (r : StatusRecord) {s : State} (p : P s) : P (takeStatus node s r) := by
  unfold takeStatus
  split
  · exact p
  · rename_i f _
    have stored := K.fn (f := f) (x := { s.fn f with status := some r.status, ready := r.status.ready })
      (.of_eq rfl rfl (.inr rfl)) p
    have checked : P (if (s.setFn f { s.fn f with status := some r.status, ready := r.status.ready }).active then
        echoCheck f r.status (s.setFn f { s.fn f with status := some r.status, ready := r.status.ready })
      else s.setFn f { s.fn f with status := some r.status, ready := r.status.ready }) := by
      split
      · exact echoCheck_kept K f _ ‹_› stored
      · exact stored
    dsimp only
    generalize (if (s.setFn f { s.fn f with status := some r.status, ready := r.status.ready }).active then
        echoCheck f r.status (s.setFn f { s.fn f with status := some r.status, ready := r.status.ready })
      else s.setFn f { s.fn f with status := some r.status, ready := r.status.ready }) = t at checked
    have monitored : P (if t.active && f.monitored then monitorDeviation f r.status t else t) := by
      split
      · rename_i both
        exact monitorDeviation_kept K f _ (Bool.and_eq_true_iff.mp both).1 checked
      · exact checked
    split
    · exact armStatus_kept K _ monitored
    · exact monitored

theorem takeStatuses_kept (frame : List Byte) {s : State} (p : P s) : P (takeStatuses frame s) := by
  unfold takeStatuses
  split
  · exact p
  · exact List.foldlRecOn _ _ (motive := P) p fun _ q r _ => takeStatus_kept K _ r q

/-! Ports and forward queues. -/

theorem movePortD_kept (x : PortState) {s : State} (p : P s) : P (movePortD x s) := by
  unfold movePortD
  dsimp only
  split
  · exact beginPresence_kept K _ _ (K.portD x p)
  · split
    · exact losePresence_kept K _ (K.portD x p)
    · exact K.portD x p

theorem offerDown_kept (frame : List Byte) {s : State} (p : P s) : P (offerDown frame s) := by
  unfold offerDown
  split
  · exact K.fwd _ (fun _ => by rw [List.length_append]; simpa using ‹s.fwd.down.length < _›) id p
  · exact occurrence_kept K _ _ p

theorem offerUp_kept (frame : List Byte) {s : State} (p : P s) : P (offerUp frame s) := by
  unfold offerUp
  split
  · exact K.fwd _ id (fun _ => by rw [List.length_append]; simpa using ‹s.fwd.up.length < _›) p
  · exact occurrence_kept K _ _ p

theorem copyFrame_kept (frame : List Byte) {s : State} (p : P s) : P (copyFrame frame s) := by
  unfold copyFrame
  split
  · exact takeSamples_kept K frame p
  · split
    · exact takeStatuses_kept K frame p
    · exact p

theorem receiveD_kept (bytes : List Byte) {s : State} (p : P s) : P (receiveD bytes s) := by
  unfold receiveD
  split
  · have moved := movePortD_kept K (portGood s.portD) p
    unfold acceptDown
    split
    · exact offerUp_kept K _ (copyFrame_kept K _ moved)
    · split
      · exact copyFrame_kept K _ (offerUp_kept K _ (choicesTaken_kept K 1 moved))
      · exact offerUp_kept K _ (copyFrame_kept K _ (choicesTaken_kept K 1 moved))
  · exact movePortD_kept K _ p

theorem loseLine_kept (port : PortName) {s : State} (p : P s) : P (loseLine port s) := by
  cases port with
  | u => exact K.portU _ p
  | d => exact movePortD_kept K _ p

theorem endTransmission_kept (port : PortName) {s : State} (p : P s) : P (endTransmission port s) := by
  cases port with
  | u => exact K.portU _ p
  | d => exact K.portD _ p

/-! Timers and the commit engine. -/

theorem stepTimerExpires_kept {h : Head} {s : State} (due : stepTimerDue s h = true) (p : P s) :
    P (stepTimerExpires h s) := by
  have place : free ∨ (s.seq h).state = .polishing := by
    unfold stepTimerDue at due
    split at due
    · exact K.polishes h _ p ‹_›
    all_goals cases due
  have working : (s.seq h).state = .polishing → headWorking s h = true := fun polishing => by
    rw [headWorking, polishing]; rfl
  have may : free ∨ MayEnd s h := place.imp_right fun polishing =>
    ⟨.inl (working polishing), NotGranted.of_state (by rw [polishing]; decide)⟩
  unfold stepTimerExpires
  split
  · exact p
  · split
    · exact endStep_kept K _ may p
    · exact endStep_kept K _ may p
    · refine occurrence_kept K _ _ (K.seq (place.imp_right fun polishing => ⟨fun kept => ?_, fun _ =>
        .inr (working polishing)⟩) p)
      exact ⟨fun _ runs => (nomatch runs), fun _ frozen => (nomatch frozen), fun _ => .inl polishing, kept.gap,
        kept.interval⟩

theorem sampleGapExpires_kept (h : Head) {s : State} (p : P s) : P (sampleGapExpires h s) := by
  refine occurrence_kept K _ _ (K.seq (.inr ⟨fun kept => ?_, fun works => .inr works⟩) p)
  exact ⟨kept.running, kept.frozen, kept.expired, fun _ runs => (nomatch runs), kept.interval⟩

theorem arrivalExpires_kept {s : State} (p : P s) : P (arrivalExpires s) := by
  unfold arrivalExpires
  split
  · exact p
  · exact occurrence_kept K _ _ (setRun_kept K _ p)

theorem wearAdded_kept (f d : Nat) {s : State} (p : P s) : P (wearAdded f d s) := by
  have counted := K.store { s.store with live := { s.store.live with
      pad := min (s.store.live.pad + (f * d + s.cdr.padRem) / 10000) Config.wearMax
      disk := min (s.store.live.disk + (d + s.cdr.diskRem) / 1000) Config.wearMax } }
    (fun k => ⟨⟨Nat.min_le_right _ _, Nat.min_le_right _ _, k.live.padCount, k.live.diskCount, k.live.wafers⟩,
      k.record, k.engine, k.padRem, k.diskRem, k.pending, k.staged⟩) p
  exact K.cdr { s.cdr with padRem := (f * d + s.cdr.padRem) % 10000, diskRem := (d + s.cdr.diskRem) % 1000 }
    (fun k => ⟨k.live, k.record, k.engine, Nat.mod_lt _ (by decide), Nat.mod_lt _ (by decide), k.pending, k.staged⟩)
    counted

theorem nextTravel_kept (run : CondRun) (prog : CondProgram) {s : State} (p : P s) : P (nextTravel run prog s) := by
  unfold nextTravel
  dsimp only
  split
  · exact p
  · exact enterTravel_kept K _ _ _ p

theorem dwellExpires_kept {s : State} (p : P s) : P (dwellExpires s) := by
  unfold dwellExpires
  split
  · exact p
  · split
    · exact p
    · split
      · exact p
      · unfold dwellEnds
        split
        · exact evaluateWear_kept K (nextTravel_kept K _ _ (wearAdded_kept K _ _ p))
        · exact nextTravel_kept K _ _ p

theorem supervisionExpires_kept {s : State} (due : deadlineDue s s.mgmt.supTimer = true) (p : P s) :
    P (supervisionExpires s) := by
  refine beginPresence_kept K _ _ (K.super none true (.inr ?_) p)
  intro stopped
  rw [stopped] at due
  cases due

omit K in
/-- A programmed record takes the contents that the engine held, which keep their ranges (R189). -/
theorem storeKept_storeValid {s : State} {w : Write} (programs : s.store.engine = some w) (k : StoreKept s) :
    StoreKept (s.setStore (storeValid s.store w.contents)) := by
  obtain ⟨contents, origin⟩ := w
  cases contents with
  | wear c =>
    refine ⟨k.live, fun w valid => ?_, k.engine, k.padRem, k.diskRem, k.pending, k.staged⟩
    obtain rfl : c = w := by simpa [storeValid] using valid
    exact k.engine _ _ programs
  | _ => exact ⟨k.live, k.record, k.engine, k.padRem, k.diskRem, k.pending, k.staged⟩

theorem programmed_kept {w : Write} {s : State} (programs : s.store.engine = some w) (p : P s) : P (programmed w s) := by
  have q := queueEvent_kept K .storeCommitted none
    [dv (recordCode w.contents.record), dv (writeOriginCode w.origin)] (K.store _ (storeKept_storeValid programs) p)
  unfold programmed engineNext
  split
  · exact K.store _ storeKept_startWearWrite q
  · rename_i unmarked
    exact K.store _ (fun k => ⟨k.live, k.record, fun _ _ e => (nomatch e), k.padRem, k.diskRem,
      fun marked => absurd marked unmarked, k.staged⟩) q

/-! The end of the store load. -/

theorem reportRecord_kept {α : Type} (x : Stored α) (r : RecordName) {s : State} (p : P s) : P (reportRecord x r s) := by
  unfold reportRecord
  split
  · exact p
  · exact occurrence_kept K _ _ p
  · exact occurrence_kept K _ _ p

omit K in
theorem storeKept_loadCopies {s : State} (k : StoreKept s) : StoreKept (s.setStore (loadCopies s.store)) :=
  ⟨k.live, k.record, k.engine, k.padRem, k.diskRem, k.pending, k.staged⟩

omit K in
theorem storeKept_load {s : State} (k : StoreKept s) : StoreKept (s.setStore (loadLive (loadCopies s.store))) := by
  refine ⟨?_, k.record, k.engine, k.padRem, k.diskRem, k.pending, k.staged⟩
  show WearOk ((validContents s.store.wearRec).getD noWear)
  cases record : s.store.wearRec with
  | valid w => exact k.record w record
  | blank => exact noWear_ok
  | invalid => exact noWear_ok

theorem storeLoaded_kept {s : State} (p : P s) : P (storeLoaded s) := by
  have loaded : P (loadStore s) := discardOpenSweeps_kept K (K.store _ storeKept_load p)
  have reported := reportRecord_kept K s.store.protectRec .protect (reportRecord_kept K s.store.wearRec .wear
    (reportRecord_kept K s.store.channelRec .channelCal (reportRecord_kept K s.store.sensorRec .sensorCal loaded)))
  exact queueEvent_kept K _ _ _ (beginPresence_kept K _ _ (K.running reported))

end Walk

end Sys2Proof.Machine


/-! ## The induction over the requests: what every block's write keeps, every owning rule keeps -/

namespace Sys2Proof.Machine

/-- An owning rule keeps a predicate at a part that runs. -/
def OwnerKeeps {α : Type} (P : State → Prop) (owner : Request → α → State → State × Answer) : Prop :=
  ∀ (r : Request) (a : α) {s : State}, isRunning s = true → P s → P (owner r a s).1

/-- The service of a request keeps a predicate at a part that runs. -/
def ServiceKeeps (P : State → Prop) (serve : Request → State → State × Answer) : Prop :=
  ∀ (r : Request) {s : State}, isRunning s = true → P s → P (serve r s).1

section Owners

variable {free : Prop} {P : State → Prop} (K : Kept free P)

/-! Management unit. -/

theorem ownIdentify_keeps : OwnerKeeps P ownIdentify := fun _ _ _ _ p => p

theorem ownHeartbeat_keeps : OwnerKeeps P ownHeartbeat := fun _ _ _ _ p => p

theorem ownReadLimits_keeps : OwnerKeeps P ownReadLimits := fun _ _ _ _ p => p

include K

theorem clearKeyClamped_kept (key : MapKey) {s : State} (p : P s) : P (clearKeyClamped key s) := by
  cases key with
  | sensor => exact p
  | fn f => exact K.fn (.of_eq rfl rfl (.inr rfl)) p

theorem ownReadState_keeps : OwnerKeeps P ownReadState := by
  intro r a s _ p
  unfold ownReadState
  split
  · exact p
  · exact p
  · exact p
  · exact K.clamped p
  · split
    · exact p
    · exact clearKeyClamped_kept K _ p

theorem ownSetMode_keeps : OwnerKeeps P ownSetMode := by
  intro r a s runs p
  unfold ownSetMode
  split
  · exact p
  · split
    · exact p
    · split
      · split
        · exact p
        · rename_i written
          have t := K.active (some (deadlineAfter s.base.time s.lim.supervisionTimeout))
            (by simpa [Option.isSome_iff_ne_none] using written) runs p
          refine queueEvent_kept K _ _ _ ?_
          unfold enterActive
          dsimp only
          split
          · exact writeHoldValues_kept K t
          · exact t
      · split
        · exact p
        · rename_i still
          simp only [Bool.or_eq_true, not_or, Bool.not_eq_true] at still
          exact queueEvent_kept K _ _ _ (K.transparent still.1 p)

theorem ownWriteLimits_keeps : OwnerKeeps P ownWriteLimits := by
  intro r l s _ p
  unfold ownWriteLimits
  split
  · exact p
  · split
    · exact p
    · rename_i unwritten
      split
      · exact evaluateWear_kept K (K.limits l (by simpa using unwritten) p)
      · exact p

theorem ownStationReset_keeps : OwnerKeeps P ownStationReset := by
  intro r _ s _ p
  unfold ownStationReset
  split
  · exact p
  · exact stationReset_kept K _ p

/-! Tables. -/

omit K in
/-- A return IN_BAND writes the function's entry, and of the rest the condition unit alone (R114, R115). -/
theorem returnInBand_only (f : Fn) (s : State) :
    { returnInBand f s with cu := s.cu } = s.setFn f { s.fn f with dev := .inBand } := by
  unfold returnInBand
  dsimp only
  split
  · rfl
  · split
    · rw [losePresence_eq]; rfl
    · rfl

omit K in
theorem returnInBand_fmap (f : Fn) (s : State) :
    (returnInBand f s).fmap = (s.setFn f { s.fn f with dev := .inBand }).fmap := by
  rw [← returnInBand_only]

omit K in
/-- Who holds a node channel is read from the assignments alone. -/
theorem channelHeldByOther_congr {s t : State} (assign : ∀ f, (t.fn f).assign = (s.fn f).assign)
    (sensor : t.fmap.sensor = s.fmap.sensor) (key : MapKey) : channelHeldByOther t key = channelHeldByOther s key := by
  funext ch
  simp only [channelHeldByOther, assign, sensor]

omit K in
theorem returnInBand_assign (f g : Fn) (s : State) : ((returnInBand f s).fn g).assign = (s.fn g).assign := by
  rw [State.fn_of_fmap (returnInBand_fmap f s)]
  by_cases same : g = f
  · rw [same, State.fn_setFn_same]
  · rw [State.fn_setFn_of_ne _ _ same]

theorem remapKey_kept {key : MapKey} {ch : Option NodeChannel} {s : State}
    (unheld : ch.any (channelHeldByOther s key) = false) (p : P s) : P (remapKey key ch s) := by
  cases key with
  | sensor => exact discardOpenSweeps_kept K (K.sensor unheld p)
  | fn f =>
    refine K.assign ?_ (returnInBand_kept K f p)
    rwa [channelHeldByOther_congr (returnInBand_assign f · s) (by rw [returnInBand_fmap]; rfl)]

theorem ownMapFunction_keeps : OwnerKeeps P ownMapFunction := by
  intro r a s _ p
  unfold ownMapFunction
  split
  · exact p
  · split
    · exact p
    · split
      · exact p
      · split
        · exact p
        · rename_i unheld
          split
          · exact p
          · exact remapKey_kept K (by simpa only [Bool.not_eq_true] using unheld) p

theorem ownLoadZoneMap_keeps : OwnerKeeps P ownLoadZoneMap := by
  intro r a s _ p
  unfold ownLoadZoneMap
  split
  · split
    · exact p
    · split
      · exact clearSweeps_kept K _ (K.sampler _ _ (fun kept => ⟨kept.short, kept.rising, kept.below, kept.count⟩) p)
      · exact p
  · exact p

theorem ownLoadStep_keeps : OwnerKeeps P ownLoadStep := by
  intro r a s _ p
  unfold ownLoadStep
  split
  · exact p
  · split
    · exact p
    · split
      · exact p
      · split
        · exact p
        · dsimp only
          split
          · exact K.steps _ p
          · exact p

theorem ownLoadBlend_keeps : OwnerKeeps P ownLoadBlend := by
  intro r a s _ p
  unfold ownLoadBlend
  split
  · exact p
  · split
    · exact p
    · exact K.dose _ p

theorem ownLoadConditioning_keeps : OwnerKeeps P ownLoadConditioning := by
  intro r a s _ p
  unfold ownLoadConditioning
  split
  · exact p
  · split
    · exact p
    · exact setCdr_kept K rfl rfl p

theorem ownLoadPadService_keeps : OwnerKeeps P ownLoadPadService := by
  intro r a s _ p
  unfold ownLoadPadService
  split
  · exact p
  · split
    · exact p
    · split
      · exact K.arb _ p
      · exact p

theorem ownLoadProgram_keeps : OwnerKeeps P ownLoadProgram := by
  intro r a s _ p
  unfold ownLoadProgram
  split
  · exact p
  · rename_i h _
    split
    · exact p
    · split
      · exact p
      · rename_i idle
        split
        · refine K.seq (.inr ⟨fun kept => Rested.timersKept ?_, fun working => nomatch working⟩) p
          have rest := kept.rested (fun state => idle (by rw [headWorking, state]; rfl))
            fun state => idle (by rw [headWorking, state]; rfl)
          exact ⟨rest.timer, rest.gap, rest.interval⟩
        · exact p

/-! Heads. -/

theorem ownStartHead_keeps : OwnerKeeps P ownStartHead := by
  intro r a s _ p
  unfold ownStartHead
  split
  · exact p
  · split
    · exact p
    · rename_i active
      split
      · exact p
      · rename_i startable
        dsimp only
        split
        · exact startHead_kept K (by simpa using active) (by simpa using startable) p
        · exact p

omit K in
theorem headRequest_keeps {accepts : HeadState → Bool} {effect : Head → State → State}
    (keeps : ∀ {h : Head} {s : State}, accepts (s.seq h).state = true → P s → P (effect h s)) :
    OwnerKeeps P fun _ => headRequest accepts effect := by
  intro r a s _ p
  dsimp only [headRequest]
  split
  · exact p
  · split
    · exact keeps ‹_› p
    · exact p

theorem ownPauseHead_keeps : OwnerKeeps P ownPauseHead :=
  headRequest_keeps fun accepted p => pauseHead_kept K (of_decide_eq_true accepted) p

theorem ownResumeHead_keeps : OwnerKeeps P ownResumeHead :=
  headRequest_keeps fun accepted p => resumeHead_kept K (of_decide_eq_true accepted) p

theorem ownSkipStep_keeps : OwnerKeeps P ownSkipStep := headRequest_keeps fun accepted p => skipStep_kept K accepted p

theorem ownAbortHead_keeps : OwnerKeeps P ownAbortHead := headRequest_keeps fun _ p => abortHead_kept K _ p

omit K in
theorem ownReadResult_keeps : OwnerKeeps P ownReadResult := by
  intro r a s _ p
  unfold ownReadResult
  split
  · exact p
  · split
    · exact p
    · split <;> exact p

omit K in
theorem ownReadProfile_keeps : OwnerKeeps P ownReadProfile := by
  intro r a s _ p
  unfold ownReadProfile
  split
  · exact p
  · split
    · split <;> exact p
    · split <;> exact p

/-! Conditions. -/

theorem applySettings_kept {k : SourceId} {enabled : Bool} {severity : Nat} {action : Action} {s : State}
    (settings : SettingsWrite k (s.source k) { s.source k with enabled, severity, action }) (p : P s) :
    P (applySettings k enabled severity action s).1 := takingRun_kept K (K.source settings p)

theorem setSpecial_kept (r : Request) {k : SourceId} (special : isSpecial k = true) (enabled : Bool) (action : Nat)
    {s : State} (p : P s) : P (setSpecial r k enabled action s).1 := by
  have apply (x : Action) : P (applySettings k enabled (s.source k).severity x s).1 :=
    applySettings_kept K ⟨.inl rfl, .inr (.inr special)⟩ p
  unfold setSpecial
  split
  · split
    · exact p
    · exact apply _
  · split
    · exact p
    · exact apply _
  · exact p
  · exact p
  · exact p

theorem setOrdinary_kept {k : SourceId} (ordinary : isSpecial k = false) (enabled : Bool) (severity action : Nat)
    {s : State} (p : P s) : P (setOrdinary k enabled severity action s).1 := by
  unfold setOrdinary
  split
  · rename_i range
    simp only [within, Bool.and_eq_true, decide_eq_true_eq] at range
    have apply (x : Action) (notReset : x ≠ .reset) : P (applySettings k enabled severity x s).1 :=
      applySettings_kept K ⟨.inr ⟨ordinary, range⟩, .inr (.inl notReset)⟩ p
    split
    · exact apply _ (by decide)
    · exact apply _ (by decide)
    · exact apply _ (by decide)
    · exact p
    · exact p
  · exact p

theorem ownSetSource_keeps : OwnerKeeps P ownSetSource := by
  intro r a s _ p
  unfold ownSetSource
  split
  · split
    · exact setSpecial_kept K r ‹_› _ _ p
    · rename_i ordinary
      exact setOrdinary_kept K (by simpa only [Bool.not_eq_true] using ordinary) _ _ _ p
  · exact p

theorem clearSource_kept (k : SourceId) {s : State} (p : P s) : P (clearSource k s) := by
  unfold clearSource
  split
  · split
    · exact endSimulation_kept K k p
    · exact p
  · exact K.source (.of_eq rfl rfl) p

theorem ownClearSource_keeps : OwnerKeeps P ownClearSource := by
  intro r a s _ p
  unfold ownClearSource
  split
  · exact p
  · exact clearSource_kept K _ p

theorem simulateSource_kept (k : SourceId) (h : Option Head) (v : Nat) {s : State} (p : P s) :
    P (simulateSource k h v s) := by
  unfold simulateSource
  split
  · exact beginSimulationWith_kept K (fun _ => takingRun_kept K) k v p
  · exact occurrence_kept K _ _ p

theorem ownSimulateSource_keeps : OwnerKeeps P ownSimulateSource := by
  intro r a s _ p
  unfold ownSimulateSource
  split
  · exact p
  · split
    · exact p
    · split
      · exact p
      · exact simulateSource_kept K .limitReached _ _ p
    · exact simulateSource_kept K _ _ _ p

omit K in
theorem ownReadConditions_keeps : OwnerKeeps P ownReadConditions := by
  intro r a s _ p
  unfold ownReadConditions
  split
  · exact p
  · split
    · split <;> exact p
    · exact p

omit K in
theorem levelSet_le {r : Request} {v : Nat} (le : v ≤ 15) : levelSet r v ≤ 15 := by
  unfold levelSet
  split
  · exact (min_le_left _ _).trans le
  · exact le

theorem ownSetLevel_keeps : OwnerKeeps P ownSetLevel := by
  intro r v s _ p
  unfold ownSetLevel
  split
  · exact p
  · exact levelFell_kept K _ (K.level (levelSet_le (Nat.le_of_not_lt ‹_›)) p)

theorem ownResumeLevel_keeps : OwnerKeeps P ownResumeLevel := by
  intro r _ s _ p
  unfold ownResumeLevel
  split
  · exact p
  · exact levelFell_kept K _ (K.resume ‹_› p)

theorem ownReleaseHold_keeps : OwnerKeeps P ownReleaseHold := by
  intro r _ s _ p
  unfold ownReleaseHold
  split
  · exact p
  · exact endHold_kept K p

theorem abortHeads_kept {s : State} (p : P s) : P (abortHeads s) := by
  unfold abortHeads
  split
  · split
    · exact abortHead_kept K _ (abortHead_kept K _ (choicesTaken_kept K 1 p))
    · exact abortHead_kept K _ (abortHead_kept K _ (choicesTaken_kept K 1 p))
  · exact abortIfWorking_kept K _ (abortIfWorking_kept K _ p)

theorem ownAbortAll_keeps : OwnerKeeps P ownAbortAll := by
  intro r _ s _ p
  unfold ownAbortAll
  split
  · exact p
  · exact K.level (Nat.le_refl 15) (abortHeads_kept K (beginHold_kept K p))

/-! Store. -/

omit K in
theorem ownStoreRead_keeps : OwnerKeeps P ownStoreRead := by
  intro r a s _ p
  unfold ownStoreRead
  split
  · exact p
  · split
    · exact p
    · split <;> exact p

/-- A staged write is not one of WEAR (R187). -/
theorem stage_kept (r : Request) {c : Contents} (notWear : c.record ≠ .wear) {s : State} (p : P s) :
    P (stage r c s).1 :=
  K.store _ (fun k => ⟨k.live, k.record, k.engine, k.padRem, k.diskRem, k.pending, fun w staged => by
    cases Option.some.inj staged
    exact notWear⟩) p

theorem ownStoreStage_keeps : OwnerKeeps P ownStoreStage := by
  intro r a s _ p
  unfold ownStoreStage
  split
  · exact p
  · exact p
  · split
    · exact p
    · split
      · exact p
      · exact stage_kept K r (by rintro ⟨⟩) p
  · split
    · exact p
    · split
      · exact stage_kept K r (by rintro ⟨⟩) p
      · exact p
  · split
    · exact p
    · split
      · exact stage_kept K r (by rintro ⟨⟩) p
      · exact p

omit K in
/-- What is staged goes into the engine, and is not a WEAR record (R187, R188). -/
theorem storeKept_commit {s : State} {w : Write} (staged : s.store.staged = some w) (k : StoreKept s) :
    StoreKept (s.setStore { s.store with engine := some w, staged := none }) where
  live := k.live
  record := k.record
  engine c o programs := by
    cases Option.some.inj programs
    exact absurd rfl (k.staged _ staged)
  padRem := k.padRem
  diskRem := k.diskRem
  pending _ := nofun
  staged _ := nofun

theorem ownStoreCommit_keeps : OwnerKeeps P ownStoreCommit := by
  intro r a s _ p
  unfold ownStoreCommit
  split
  · exact p
  · split
    · exact p
    · split
      · exact p
      · split
        · exact p
        · split
          · exact p
          · split
            · exact p
            · exact K.store _ (storeKept_commit ‹_›) p

theorem ownStoreReload_keeps : OwnerKeeps P ownStoreReload := by
  intro r _ s _ p
  unfold ownStoreReload
  split
  · exact p
  · split
    · exact p
    · exact discardOpenSweeps_kept K (K.store _ storeKept_loadCopies p)

theorem renewPad_kept {s : State} (p : P s) : P (renewPad s) := by
  have stored : P (s.setStore (renewPad s).store) :=
    K.store _ (fun k => ⟨⟨Nat.zero_le _, k.live.disk, Nat.min_le_right _ _, k.live.diskCount, k.live.wafers⟩,
      k.record, k.engine, k.padRem, k.diskRem, k.pending, k.staged⟩) p
  exact K.cdr (s := s.setStore (renewPad s).store) (renewPad s).cdr
    (fun k => ⟨k.live, k.record, k.engine, Nat.zero_lt_succ _, k.diskRem, k.pending, k.staged⟩) stored

theorem renewDisk_kept {s : State} (p : P s) : P (renewDisk s) := by
  have stored : P (s.setStore (renewDisk s).store) :=
    K.store _ (fun k => ⟨⟨k.live.pad, Nat.zero_le _, k.live.padCount, Nat.min_le_right _ _, k.live.wafers⟩,
      k.record, k.engine, k.padRem, k.diskRem, k.pending, k.staged⟩) p
  exact K.cdr (s := s.setStore (renewDisk s).store) (renewDisk s).cdr
    (fun k => ⟨k.live, k.record, k.engine, k.padRem, Nat.zero_lt_succ _, k.pending, k.staged⟩) stored

theorem ownReplaceConsumable_keeps : OwnerKeeps P ownReplaceConsumable := by
  intro r a s _ p
  unfold ownReplaceConsumable
  split
  · exact p
  · split
    · exact p
    · dsimp only
      split
      · exact requestWearWrite_kept K (evaluateWear_kept K (renewPad_kept K p))
      · exact requestWearWrite_kept K (evaluateWear_kept K (renewDisk_kept K p))

/-! The checks around an owning rule. -/

theorem superviseRequest_kept (origin : Nat) {s : State} (p : P s) : P (superviseRequest origin s) := by
  unfold superviseRequest
  split
  · rename_i restarts
    have ended : P (endSupervisionLoss s) ∧ (endSupervisionLoss s).active = true := by
      unfold endSupervisionLoss
      split
      · exact ⟨losePresence_kept K _ (K.super _ false (.inl restarts.2) p), by rw [losePresence_eq]; exact restarts.2⟩
      · exact ⟨p, restarts.2⟩
    exact K.super _ _ (.inl ended.2) ended.1
  · exact p

end Owners

end Sys2Proof.Machine


/-! ## What the transmitters' choice keeps -/

namespace Sys2Proof.Machine

/-- A predicate that each write of Port D's choice keeps (R105 to R107, R109, R110, R129, R130). -/
structure SendDKept (P : State → Prop) : Prop where
  emptied   : ∀ {s} (f : Fn), P s → P { s with slots := s.slots.set f none } := by
    intros; assumption
  told      : ∀ {s} (f : Fn) (tx : Option LastTx) (e : Nat) (c : Bool), e = 0 ∨ e = (s.fn f).echo → P s →
    P (s.setFn f { s.fn f with lastTx := tx, echo := e, clamped := c }) := by
    intros; assumption
  startedD  : ∀ {s} (c : TxClass) (frame : List Byte), P s → P { s with portD := startFrame c frame s.portD } := by
    intros; assumption
  down      : ∀ {s} {frame : List Byte} {rest : List (List Byte)}, s.fwd.down = frame :: rest → P s →
    P { s with fwd := { s.fwd with down := rest } } := by
    intros; assumption

/-- A predicate that each write of Port U's choice keeps (R129 to R133, R179). -/
structure SendUKept (P : State → Prop) : Prop where
  startedU  : ∀ {s} (c : TxClass) (frame : List Byte), P s → P { s with portU := startFrame c frame s.portU } := by
    intros; assumption
  up        : ∀ {s} {frame : List Byte} {rest : List (List Byte)}, s.fwd.up = frame :: rest → P s →
    P { s with fwd := { s.fwd with up := rest } } := by
    intros; assumption
  responses : ∀ {s} {r : Response} {rest : List Response}, s.mgmt.responses = r :: rest → P s →
    P { s with mgmt := { s.mgmt with responses := rest } } := by
    intros; assumption
  events    : ∀ {s} (n : Nat), P s → P { s with mgmt := { s.mgmt with events := s.mgmt.events.drop n } } := by
    intros; assumption
  released  : ∀ {s} {r : Response}, s.mgmt.responses = [] → s.mgmt.heldBack = some r → P s →
    P { s with mgmt := { s.mgmt with responses := s.mgmt.responses ++ [r], heldBack := none } } := by
    intros; assumption

/-- A predicate that each write of the transmitters' choice keeps. -/
structure SendKept (P : State → Prop) : Prop extends SendDKept P, SendUKept P

section Sending

variable {P : State → Prop} (S : SendDKept P)

include S

theorem markClamped_kept (fs : List Fn) {s : State} (p : P s) : P (markClamped fs s) := by
  unfold markClamped
  induction fs generalizing s with
  | nil => exact p
  | cons f fs ih => exact ih (S.told f _ _ true (.inr rfl) p)

theorem recordForwarded_kept (node : Nat) (rs : List SetpointRecord) {s : State} (p : P s) :
    P (recordForwarded node rs s) := by
  unfold recordForwarded
  induction rs generalizing s with
  | nil => exact p
  | cons r rs ih =>
    refine ih ?_
    dsimp only
    split
    · exact p
    · exact S.told _ _ _ _ (.inl rfl) p

theorem judgeFrame_kept (frame : List Byte) {s : State} (p : P s) : P (judgeFrame frame s).2 := by
  unfold judgeFrame
  dsimp only
  split
  · exact p
  · split
    · split <;> exact p
    · split
      · exact markClamped_kept S _ p
      · split <;> exact recordForwarded_kept S _ _ (markClamped_kept S _ p)

theorem departSlot_kept (f : Fn) {s : State} (p : P s) : P (departSlot s f) := by
  unfold departSlot
  split
  · exact p
  · exact S.told f _ _ _ (.inl rfl) (S.emptied f p)

theorem setpointFrame_kept {s t : State} {frame : List Byte} (sends : setpointFrame s = some (frame, t)) (p : P s) :
    P t := by
  unfold setpointFrame at sends
  split at sends
  · cases sends
  · cases sends
    have departs : ∀ (gathered : List (Nat × Fn)) {s : State}, P s →
        P (gathered.foldl (fun s g => departSlot s g.2) s) := by
      intro gathered
      induction gathered with
      | nil => exact fun p => p
      | cons g gs ih => exact fun p => ih (departSlot_kept S g.2 p)
    exact departs _ p

theorem sendOwnD_kept {s : State} (p : P s) : P (sendOwnD s) := by
  unfold sendOwnD
  split
  · exact p
  · exact S.startedD _ _ (setpointFrame_kept S ‹_› p)

theorem chooseD_kept (fuel : Nat) {s : State} (p : P s) : P (chooseD fuel s) := by
  induction fuel generalizing s with
  | zero => exact p
  | succ fuel ih =>
    unfold chooseD
    split
    · split
      · exact sendOwnD_kept S p
      · rename_i frame rest _ waits
        have judged := judgeFrame_kept S frame (S.down waits p)
        split
        · rename_i judgement
          rw [judgement] at judged
          exact S.startedD _ _ judged
        · rename_i judgement
          rw [judgement] at judged
          exact ih judged
      · exact p
      · exact p
    · exact p

end Sending

theorem sendOwnU_kept {P : State → Prop} (S : SendUKept P) {s : State} (p : P s) : P (sendOwnU s) := by
  unfold sendOwnU
  split
  · rename_i waits
    exact S.startedU _ _ (S.responses waits p)
  · rename_i silent
    have left := S.events Config.eventsPerFrame p
    refine S.startedU (s := { s with mgmt := releaseHeldBack _ { s.mgmt with events := _ } }) _ _ ?_
    unfold releaseHeldBack
    split
    · exact left
    · rename_i held
      split
      · exact S.released (s := { s with mgmt := { s.mgmt with events := s.mgmt.events.drop Config.eventsPerFrame } })
          silent held left
      · exact left

theorem chooseU_kept {P : State → Prop} (S : SendUKept P) {s : State} (p : P s) : P (chooseU s) := by
  unfold chooseU
  split
  · split
    · exact sendOwnU_kept S p
    · exact S.startedU (s := { s with fwd := { s.fwd with up := _ } }) _ _ (S.up ‹_› p)
    · exact p
    · exact p
  · exact p

/-- What each write of the choice keeps, the whole choice keeps (R129). -/
theorem settle_kept {P : State → Prop} (S : SendKept P) {s : State} (p : P s) : P (settle s) :=
  chooseU_kept S.toSendUKept (chooseD_kept S.toSendDKept _ p)

/-- What a predicate needs besides an induction over the blocks to be kept by the transmitters' choice. -/
theorem Kept.sends {free : Prop} {P : State → Prop} (K : Kept free P)
    (emptied : ∀ {s} (f : Fn), P s → P { s with slots := s.slots.set f none })
    (responses : ∀ {s} {r : Response} {rest : List Response}, s.mgmt.responses = r :: rest → P s →
      P { s with mgmt := { s.mgmt with responses := rest } })
    (released : ∀ {s} {r : Response}, s.mgmt.responses = [] → s.mgmt.heldBack = some r → P s →
      P { s with mgmt := { s.mgmt with responses := s.mgmt.responses ++ [r], heldBack := none } }) :
    SendKept P where
  emptied := emptied
  told f _ _ _ echo p := K.fn (.of_eq rfl rfl echo) p
  startedU _ _ p := K.portU _ p
  startedD _ _ p := K.portD _ p
  down waits p := K.fwd _ (fun le => by rw [waits] at le; exact Nat.le_of_succ_le le) (fun le => le) p
  up waits p := K.fwd _ (fun le => le) (fun le => by rw [waits] at le; exact Nat.le_of_succ_le le) p
  responses := responses
  events n p := K.events _ _ (fun le => (List.drop_sublist n _).length_le.trans le) p
  released := released

end Sys2Proof.Machine


/-! ## Requests that are not taken, and a part that does not run (R125, R135, R160) -/

namespace Sys2Proof.Machine

theorem request_of_not_running {code : Nat} {serve : Request → State → State × Answer} {r : Request} {s : State}
    (still : isRunning s = false) : request code serve r s = s := by
  unfold request
  rw [still]
  rfl

theorem whenRunning_of_not_running {effect : State → State} {s : State} (still : isRunning s = false) :
    whenRunning effect s = s := by
  unfold whenRunning
  rw [still]
  rfl

theorem execUnknownRequest_of_not_running {origin : Nat} {payload : List Byte} {s : State}
    (still : isRunning s = false) : execUnknownRequest origin payload s = .next s := by
  unfold execUnknownRequest
  rw [still]
  rfl

/-- Settles O9: every command but the three of the reset asks first whether the part runs. -/
theorem stillWhileTheSwitchIsClosed : Obligations.StillWhileTheSwitchIsClosed := by
  intro c s still
  have noRequest (code : Nat) (serve : Request → State → State × Answer) (r : Request) :
      (.next (request code serve r s) : Result) = .next s := by rw [request_of_not_running still]
  have noEvent (effect : State → State) : (.next (whenRunning effect s) : Result) = .next s := by
    rw [whenRunning_of_not_running still]
  cases c with
  | hardwareReset => exact .inl (.inl rfl)
  | resetRelease straps rateHigh => exact .inl (.inr (.inl ⟨straps, rateHigh, rfl⟩))
  | storeLoadDone => exact .inl (.inr (.inr rfl))
  | unknownRequest origin payload => exact .inr (execUnknownRequest_of_not_running still)
  | _ => first | exact .inr (noRequest _ _ _) | exact .inr (noEvent _)

theorem request_of_not_taken {code : Nat} {serve : Request → State → State × Answer} {r : Request} {s : State}
    (runs : isRunning s = true) (busy : takesAtOnce s = false) :
    request code serve r s = enqueueRequest { source := r.origin, payload := requestPayload code r } s := by
  unfold request
  rw [runs, busy]
  rfl

/-- A command of the catalogue that is not taken at once waits as its payload (R125, R197). -/
theorem exec_of_code_not_taken {i : Instr} {n : Nat} {r : Request} (code : codeOf i = some n)
    (carries : requestOf i = some r) {s : State} (runs : isRunning s = true) (busy : takesAtOnce s = false) :
    exec i s = .next (enqueueRequest { source := r.origin, payload := requestPayload n r } s) := by
  cases i <;> simp only [codeOf, Option.some.injEq, reduceCtorEq] at code <;>
    simp only [requestOf, Option.some.injEq] at carries <;> subst code carries <;>
    exact congrArg Host.Outcome.next (request_of_not_taken runs busy)

theorem execUnknownRequest_of_not_taken {origin : Nat} {payload : List Byte} {s : State} (runs : isRunning s = true)
    (busy : takesAtOnce s = false) :
    execUnknownRequest origin payload s = .next (enqueueRequest { source := origin, payload } s) := by
  unfold execUnknownRequest
  rw [runs, busy]
  rfl

/-- Settles O7: what is not taken goes to the tail of the request queue. -/
theorem requestsWaitInTheirQueue : Obligations.RequestsWaitInTheirQueue := by
  intro s runs busy
  exact ⟨fun i n r code carries => exec_of_code_not_taken code carries runs busy,
    fun origin payload => execUnknownRequest_of_not_taken runs busy⟩

end Sys2Proof.Machine

/-! ## The induction over the commands and steps -/

namespace Sys2Proof.Machine

/-- The code and the request of a command that is one of the catalogue's, or the payload of one that is not (R163). -/
theorem codeOf_or_unknown {i : Instr} {r : Request} (carries : requestOf i = some r) :
    (∃ n, codeOf i = some n) ∨ ∃ origin payload, i = .unknownRequest origin payload := by
  cases i with
  | unknownRequest origin payload => exact .inr ⟨origin, payload, rfl⟩
  | _ => first | exact .inl ⟨_, rfl⟩ | cases carries

/-! What the service of a request keeps. -/

section Services

variable {free : Prop} {P : State → Prop} (K : Kept free P)

include K

theorem serveRequest_keeps {α : Type} {shape : Walk α} {owner : Request → α → State → State × Answer}
    (owns : OwnerKeeps P owner) : ServiceKeeps P (serveRequest shape owner) := by
  intro r s runs p
  unfold serveRequest
  split
  · have supervised := superviseRequest_kept K r.origin p
    split
    · exact supervised
    · refine owns r _ ?_ supervised
      have base := congrArg State.base (superviseRequest_only r.origin s)
      unfold isRunning
      rw [show (superviseRequest r.origin s).base = s.base from base]
      exact runs
  · exact p

/-- Every service of the catalogue keeps what the writes of the blocks keep (R163). -/
theorem serveCode_keeps {n : Nat} {serve : Request → State → State × Answer} (serves : serveCode n = some serve) :
    ServiceKeeps P serve := by
  unfold serveCode at serves
  split at serves
  all_goals cases serves
  · exact serveRequest_keeps K ownIdentify_keeps
  · exact serveRequest_keeps K ownHeartbeat_keeps
  · exact serveRequest_keeps K (ownReadState_keeps K)
  · exact serveRequest_keeps K (ownSetMode_keeps K)
  · exact serveRequest_keeps K (ownWriteLimits_keeps K)
  · exact serveRequest_keeps K ownReadLimits_keeps
  · exact serveRequest_keeps K (ownMapFunction_keeps K)
  · exact serveRequest_keeps K (ownLoadZoneMap_keeps K)
  · exact serveRequest_keeps K (ownLoadStep_keeps K)
  · exact serveRequest_keeps K (ownLoadBlend_keeps K)
  · exact serveRequest_keeps K (ownLoadConditioning_keeps K)
  · exact serveRequest_keeps K (ownLoadPadService_keeps K)
  · exact serveRequest_keeps K (ownLoadProgram_keeps K)
  · exact serveRequest_keeps K (ownStartHead_keeps K)
  · exact serveRequest_keeps K (ownPauseHead_keeps K)
  · exact serveRequest_keeps K (ownResumeHead_keeps K)
  · exact serveRequest_keeps K (ownSkipStep_keeps K)
  · exact serveRequest_keeps K (ownAbortHead_keeps K)
  · exact serveRequest_keeps K ownReadResult_keeps
  · exact serveRequest_keeps K ownReadProfile_keeps
  · exact serveRequest_keeps K (ownSetSource_keeps K)
  · exact serveRequest_keeps K (ownClearSource_keeps K)
  · exact serveRequest_keeps K (ownSimulateSource_keeps K)
  · exact serveRequest_keeps K ownReadConditions_keeps
  · exact serveRequest_keeps K (ownSetLevel_keeps K)
  · exact serveRequest_keeps K (ownResumeLevel_keeps K)
  · exact serveRequest_keeps K (ownReleaseHold_keeps K)
  · exact serveRequest_keeps K (ownAbortAll_keeps K)
  · exact serveRequest_keeps K ownStoreRead_keeps
  · exact serveRequest_keeps K (ownStoreStage_keeps K)
  · exact serveRequest_keeps K (ownStoreCommit_keeps K)
  · exact serveRequest_keeps K (ownStoreReload_keeps K)
  · exact serveRequest_keeps K (ownReplaceConsumable_keeps K)
  · exact serveRequest_keeps K (ownStationReset_keeps K)

theorem serveShort_keeps : ServiceKeeps P serveShort := by
  intro r s _ p
  unfold serveShort
  split
  · exact superviseRequest_kept K r.origin p
  · exact p

theorem serveUnknown_keeps : ServiceKeeps P serveUnknown := by
  intro r s _ p
  unfold serveUnknown
  split
  · exact superviseRequest_kept K r.origin p
  · exact p

theorem serveNameless_keeps (payload : List Byte) : ServiceKeeps P (serveNameless payload) := by
  unfold serveNameless
  split
  · exact serveShort_keeps K
  · exact serveUnknown_keeps K

theorem servePayload_keeps (payload : List Byte) : ServiceKeeps P (servePayload payload) := by
  unfold servePayload
  split
  · rename_i code _ _
    cases serves : serveCode code.toNat with
    | none => exact serveUnknown_keeps K
    | some serve => exact serveCode_keeps K serves
  · exact serveShort_keeps K

end Services

/-! The entry to TRANSPARENT mode (R116, R171). -/

theorem loseGroup_only (before : State) (k : SourceId) (s : State) : { loseGroup before s k with cu := s.cu } = s := by
  unfold loseGroup
  split
  · rw [losePresence_eq]; rfl
  · rfl

/-- The slots are empty and every function is at rest; of the rest the condition unit alone may move (R116). -/
theorem clearMonitors_only (s : State) :
    { clearMonitors s with cu := s.cu } =
      { s with
        slots := PerFn.fill none
        fmap := { s.fmap with fns := PerFn.tabulate fun f => transparentFn (s.fmap.fns.get f) } } := by
  have loses : ∀ (ks : List SourceId) (t : State), { ks.foldl (loseGroup s) t with cu := s.cu } = { t with cu := s.cu } := by
    intro ks
    induction ks with
    | nil => exact fun t => rfl
    | cons k ks ih =>
      intro t
      exact (ih _).trans (congrArg (fun u : State => { u with cu := s.cu }) (loseGroup_only s k t))
  exact loses _ _

/-- What the entry to TRANSPARENT mode leaves outside the condition unit (R116, R171). -/
theorem enterTransparent_only (s : State) :
    { enterTransparent s with cu := s.cu } =
      { s with
        slots := PerFn.fill none
        fmap := { s.fmap with fns := PerFn.tabulate fun f => transparentFn (s.fmap.fns.get f) }
        mgmt := { s.mgmt with mode := .transparent, supTimer := none, supLoss := false } } := by
  have cleared := congrArg
    (fun t : State => { t with mgmt := { t.mgmt with supTimer := none, supLoss := false } })
    (clearMonitors_only { s with mgmt := { s.mgmt with mode := .transparent } })
  refine Eq.trans ?_ cleared
  unfold enterTransparent endSupervisionLoss
  dsimp only
  split
  · rw [losePresence_eq]; rfl
  · rename_i unlost
    have unlost : (clearMonitors { s with mgmt := { s.mgmt with mode := .transparent } }).mgmt.supLoss = false := by
      simpa only [Bool.not_eq_true] using unlost
    rw [← unlost]

theorem enterTransparent_mgmt (s : State) :
    (enterTransparent s).mgmt = { s.mgmt with mode := .transparent, supTimer := none, supLoss := false } := by
  have only := congrArg State.mgmt (enterTransparent_only s)
  exact only

/-! A request's response. -/

/-- The response queue stands as R, unless a station reset emptied it, and no response is held back. -/
def Awaits (R : List Response) (m : Management) : Prop :=
  m.heldBack = none ∧ (m.resetTaken = false → m.responses = R) ∧ (m.resetTaken = true → m.responses = [])

/-- No command places a response by itself: the responses stand as the request found them, or a station reset emptied them
(R160, R180). -/
theorem awaits_kept (R : List Response) : Kept True fun s => Awaits R s.mgmt where
  polishes _ _ _ _ := .inl trivial
  transparent _ p := by rw [enterTransparent_mgmt]; exact p
  reset p := ⟨p.1, nofun, fun _ => rfl⟩

/-- A predicate that the placing of responses, the queueing of requests, the transmitters' choice and the release of the
reset keep, besides the writes of the blocks. -/
structure AnswerKept (free : Prop) (P : State → Prop) : Prop extends Kept free P where
  sends    : SendKept P
  begins   : ∀ {s} (b : Bool), P s → P { s with mgmt := { s.mgmt with resetTaken := b } } := by
    intros; assumption
  requests : ∀ {s} (q : List QueuedRequest),
    (s.mgmt.requests.length ≤ Config.requestCapacity → q.length ≤ Config.requestCapacity) → P s →
    P { s with mgmt := { s.mgmt with requests := q } } := by
    intros; assumption
  places   : ∀ {s} (r : Response), s.mgmt.heldBack = none → s.mgmt.responses.length < Config.responseCapacity → P s →
    P { s with mgmt := { s.mgmt with responses := s.mgmt.responses ++ [r] } } := by
    intros; assumption
  holds    : ∀ {s} (r : Response), s.mgmt.responses = [] → P s →
    P { s with mgmt := { s.mgmt with heldBack := some r } } := by
    intros; assumption
  releases : ∀ {s} (b : TimeBase), b.phase ≠ .running → s.base.phase = .asserted → P s →
    P { s with base := b, mgmt := { s.mgmt with mode := .transparent } } := by
    intros; assumption

section Commands

variable {free : Prop} {P : State → Prop} (K : AnswerKept free P)

include K

theorem respond_kept {R : List Response} {s : State} (dest : Nat) (tag : Byte) (a : Answer)
    (room : R.length < Config.responseCapacity) (awaits : Awaits R s.mgmt) (p : P s) : P (respond dest tag a s) := by
  obtain ⟨free, plain, reset⟩ := awaits
  unfold respond
  dsimp only
  split
  · exact K.begins (s := { s with mgmt := { s.mgmt with heldBack := _ } }) false (K.holds _ (reset ‹_›) p)
  · rename_i untouched
    exact K.places _ free (by rw [plain (by simpa only [Bool.not_eq_true] using untouched)]; exact room) p

/-- A request that is served with a service of the catalogue keeps the predicate to its response and the choice (R160). -/
theorem completeRequest_kept {serve : Request → State → State × Answer}
    (serves : ∀ {free : Prop} {P : State → Prop}, Kept free P → ServiceKeeps P serve) (r : Request) {s : State}
    (runs : isRunning s = true) (takes : canTake s = true) (p : P s) : P (completeRequest serve r s) := by
  simp only [canTake, Bool.and_eq_true, Option.isNone_iff_eq_none, decide_eq_true_eq] at takes
  have awaits : Awaits s.mgmt.responses (beginRequest s).mgmt := ⟨takes.1, fun _ => rfl, nofun⟩
  exact settle_kept K.sends (respond_kept K _ _ _ takes.2 (serves (awaits_kept _) r runs awaits)
    (serves K.toKept r runs (K.begins false p)))

theorem enqueueRequest_kept (q : QueuedRequest) {s : State} (p : P s) : P (enqueueRequest q s) := by
  unfold enqueueRequest
  split
  · refine K.requests _ (fun _ => ?_) p
    rw [List.length_append]
    exact ‹s.mgmt.requests.length < _›
  · exact p

theorem takeQueued_kept {s : State} (can : canTakeQueued s = true) (p : P s) : P (takeQueued s) := by
  simp only [canTakeQueued, Bool.and_eq_true] at can
  obtain ⟨⟨runs, takes⟩, _⟩ := can
  unfold takeQueued
  split
  · exact p
  · rename_i q rest waits
    have left : P { s with mgmt := { s.mgmt with requests := rest } } :=
      K.requests rest (fun le => by rw [waits] at le; exact Nat.le_of_succ_le le) p
    exact completeRequest_kept K (fun K => servePayload_keeps K q.payload) _ runs takes left

theorem whenRunning_kept {effect : State → State} {s : State} (keeps : P s → P (effect s)) (p : P s) :
    P (whenRunning effect s) := by
  unfold whenRunning
  split
  · exact settle_kept K.sends (keeps p)
  · exact p

/-- A request of the catalogue, taken at once or queued. -/
theorem exec_of_code_kept {i : Instr} {n : Nat} {r : Request} (code : codeOf i = some n) (carries : requestOf i = some r)
    {s t : State} (execs : exec i s = .next t) (p : P s) : P t := by
  by_cases runs : isRunning s = true
  · by_cases takes : takesAtOnce s = true
    · rw [exec_of_code code carries runs takes] at execs
      cases execs
      simp only [takesAtOnce, Bool.and_eq_true] at takes
      exact completeRequest_kept K (fun K => servePayload_keeps K _) r runs takes.1 p
    · rw [exec_of_code_not_taken code carries runs (by simpa only [Bool.not_eq_true] using takes)] at execs
      cases execs
      exact enqueueRequest_kept K _ p
  · rcases stillWhileTheSwitchIsClosed i s (by simpa only [Bool.not_eq_true] using runs) with special | still
    · rcases special with rfl | ⟨_, _, rfl⟩ | rfl <;> cases code
    · rw [still] at execs
      cases execs
      exact p

theorem execUnknownRequest_kept {origin : Nat} {payload : List Byte} {s t : State}
    (execs : execUnknownRequest origin payload s = .next t) (p : P s) : P t := by
  cases execs
  split
  · split
    · rename_i runs takes
      simp only [takesAtOnce, Bool.and_eq_true] at takes
      exact completeRequest_kept K (fun K => serveNameless_keeps K payload) _ runs takes.1 p
    · exact enqueueRequest_kept K _ p
  · exact p

theorem sortUp_kept (frame : List Byte) {s : State} (p : P s) : P (sortUp frame s) := by
  unfold sortUp
  split
  · split
    · exact enqueueRequest_kept K _ p
    · exact p
  · exact offerDown_kept K.toKept frame p

theorem receiveU_kept (bytes : List Byte) {s : State} (p : P s) : P (receiveU bytes s) := by
  unfold receiveU
  split
  · exact sortUp_kept K bytes (K.portU _ p)
  · exact K.portU _ p

/-- The induction over the commands: what the writes of the blocks keep, every command but HARDWARE_RESET keeps. -/
theorem exec_kept {i : Instr} (soft : i ≠ .hardwareReset) {s t : State} (execs : exec i s = .next t) (p : P s) :
    P t := by
  have events {effect : State → State} (keeps : ∀ {s}, P s → P (effect s))
      (execs : (.next (whenRunning effect s) : Result) = .next t) : P t := by
    cases execs
    exact whenRunning_kept K keeps p
  have expiry (due : State → Bool) {effect : State → State} (keeps : ∀ {s}, due s = true → P s → P (effect s))
      (execs : (.next (whenRunning (fun s => if due s = true then effect s else s) s) : Result) = .next t) : P t := by
    refine events (fun {s} p => ?_) execs
    split
    · exact keeps ‹_› p
    · exact p
  cases i with
  | unknownRequest origin payload => exact execUnknownRequest_kept K execs p
  | portUReceive bytes => exact events (receiveU_kept K bytes) execs
  | portDReceive bytes => exact events (receiveD_kept K.toKept bytes) execs
  | lineLoss port => exact events (loseLine_kept K.toKept port) execs
  | transmitEnd port => exact events (endTransmission_kept K.toKept port) execs
  | stepTimerExpiry h => exact expiry (stepTimerDue · h) (stepTimerExpires_kept K.toKept) execs
  | sampleGapExpiry h =>
    exact expiry (fun s => deadlineDue s (s.seq h).gap) (fun _ => sampleGapExpires_kept K.toKept h) execs
  | arrivalTimerExpiry =>
    exact expiry (fun s => deadlineDue s (arrivalDeadline s.cdr.run)) (fun _ => arrivalExpires_kept K.toKept) execs
  | dwellTimerExpiry =>
    exact expiry (fun s => deadlineDue s (dwellDeadline s.cdr.run)) (fun _ => dwellExpires_kept K.toKept) execs
  | deviationDwellExpiry f =>
    refine expiry (deviationDue · f) (fun {s} due => becomeDeviated_kept K.toKept fun rests => ?_) execs
    rw [deviationDue, rests] at due
    cases due
  | supervisionExpiry =>
    exact expiry (fun s => deadlineDue s s.mgmt.supTimer) (supervisionExpires_kept K.toKept) execs
  | commitCompletion =>
    refine events (fun {s} p => ?_) execs
    split
    · exact p
    · exact programmed_kept K.toKept ‹_› p
  | hardwareReset => exact absurd rfl soft
  | resetRelease straps rateHigh =>
    cases execs
    split
    · exact K.releases _ (by rintro ⟨⟩) ‹_› p
    · exact p
  | storeLoadDone =>
    cases execs
    split
    · exact settle_kept K.sends (storeLoaded_kept K.toKept p)
    · exact p
  | _ => exact exec_of_code_kept K rfl rfl execs p

end Commands

end Sys2Proof.Machine


/-! ## The induction over the steps -/

namespace Sys2Proof.Machine

theorem mem_expiryIf {a : OwnArrival} {due : Bool} {i : Instr} :
    a ∈ expiryIf due i ↔ due = true ∧ a = .expiry i := by simp [expiryIf]

theorem canTakeQueued_of_mem {s : State} (possible : .request ∈ ownArrivals s) : canTakeQueued s = true := by
  simpa [ownArrivals, mem_expiryIf] using possible

/-- No expiry is a hardware reset. -/
theorem ne_hardwareReset_of_mem {s : State} {i : Instr} (possible : .expiry i ∈ ownArrivals s) : i ≠ .hardwareReset := by
  rintro rfl
  simp [ownArrivals, mem_expiryIf] at possible

/-- A predicate that a step which is no hardware reset keeps: besides the writes of a command, the taking of a command from
the queue and the passing of time. -/
structure StepKept (free : Prop) (P : State → Prop) : Prop extends AnswerKept free P where
  pending : ∀ {s} (q : List Instr), P s → P { s with pending := q } := by
    intros; assumption
  time    : ∀ {s} (t : Time), P s → P { s with base := { s.base with time := t } } := by
    intros; assumption

section Steps

variable {free : Prop} {P : State → Prop} (K : StepKept free P)

include K

theorem tick_kept {s : State} (p : P s) : P (tick s) := by
  unfold tick
  split
  · exact p
  · exact K.time _ p

theorem takeArrival_kept {a : OwnArrival} {s t : State} (n : Nat) (possible : a ∈ ownArrivals s)
    (takes : takeArrival a (s.choicesTaken n) = .next t) (p : P s) : P t := by
  have chosen : P (s.choicesTaken n) := choicesTaken_kept K.toKept n p
  cases a with
  | request =>
    cases takes
    exact takeQueued_kept K.toAnswerKept (canTakeQueued_of_mem possible) chosen
  | expiry i => exact exec_kept K.toAnswerKept (ne_hardwareReset_of_mem possible) takes chosen

theorem idleStep_kept {s t : State} (steps : idleStep s = .next t) (p : P s) : P t := by
  unfold idleStep at steps
  dsimp only at steps
  split at steps
  · exact takeArrival_kept K _ (List.mem_of_getElem? ‹_›) steps p
  · cases steps
    exact tick_kept K p

/-- The induction over the steps, at a step that is no hardware reset. -/
theorem step_kept {s t : State} (soft : ∀ rest, s.pending ≠ .hardwareReset :: rest) (steps : step s = .next t)
    (p : P s) : P t := by
  unfold step at steps
  split at steps
  · exact idleStep_kept K steps p
  · rename_i c rest waits
    refine exec_kept K.toAnswerKept (fun hard => soft rest ?_) steps (K.pending rest p)
    rw [waits, hard]

/-- The state that a hardware reset leaves (R135, R192). -/
def hardwareResetState (s : State) : State :=
  { State.reset with pending := s.pending, choice := s.choice, store := hardwareResetStore s.store }

/-- The induction over the steps: an invariant that a hardware reset restores. -/
theorem step_keeps (resets : ∀ {s}, P s → P (hardwareResetState s)) {s t : State} (steps : step s = .next t)
    (p : P s) : P t := by
  by_cases hard : ∃ rest, s.pending = .hardwareReset :: rest
  · obtain ⟨rest, waits⟩ := hard
    rw [step, waits] at steps
    cases steps
    exact resets (K.pending rest p)
  · exact step_kept K (fun rest waits => hard ⟨rest, waits⟩) steps p

end Steps

/-! The queue of waiting commands (log 1). -/

theorem pending_kept (q : List Instr) : AnswerKept True fun s => s.pending = q where
  polishes _ _ _ _ := .inl trivial
  transparent {s} _ p := by
    have e := congrArg State.pending (enterTransparent_only s)
    exact e.trans p
  reset p := p
  sends := {}

/-- Settles O2: no write of a command is to the queue of commands; hardware reset keeps it by log 29. -/
theorem commandsLeaveTheQueue : Obligations.CommandsLeaveTheQueue := by
  intro c s t execs
  by_cases hard : c = .hardwareReset
  · subst hard
    cases execs
    rfl
  · exact exec_kept (pending_kept s.pending) hard execs rfl

/-! The limit block (R172, R173). -/

theorem limits_kept (l : LimitBlock) : StepKept True fun s => s.mgmt.limits = some l where
  polishes _ _ _ _ := .inl trivial
  transparent _ p := by rw [enterTransparent_mgmt]; exact p
  limits _ unwritten p := by rw [unwritten] at p; cases p
  reset p := p
  sends := {}

/-- Settles O16: WRITE_LIMITS alone writes the block, and only an unwritten one. -/
theorem limitBlockStaysLocked : Obligations.LimitBlockStaysLocked := by
  refine ⟨fun c s t l written execs => ?_, fun s t l written steps => ?_⟩
  · by_cases hard : c = .hardwareReset
    · exact .inr hard
    · exact .inl (exec_kept (limits_kept l).toAnswerKept hard execs written)
  · by_cases hard : ∃ rest, s.pending = .hardwareReset :: rest
    · exact .inr hard
    · exact .inl (step_kept (limits_kept l) (fun rest waits => hard ⟨rest, waits⟩) steps written)

end Sys2Proof.Machine


/-! ## Node channels stay apart (R100, R101) -/

namespace Sys2Proof.Machine

/-- Assignments of the functions and of SENSOR in which no two keys hold the same node channel (R100). -/
def Apart (a : Fn → Option NodeChannel) (sensor : Option NodeChannel) : Prop :=
  (∀ f g c, a f = some c → a g = some c → f = g) ∧ ∀ f c, a f = some c → sensor ≠ some c

/-- What each function is assigned (R100). -/
def assignments (s : State) (f : Fn) : Option NodeChannel := (s.fn f).assign

theorem channelsDistinct_iff (s : State) : ChannelsDistinct s ↔ Apart (assignments s) s.fmap.sensor :=
  ⟨fun d => ⟨d.functions, d.sensor⟩, fun d => ⟨d.1, d.2⟩⟩

theorem assignments_setFn (s : State) (f : Fn) (x : FnState) :
    assignments (s.setFn f x) = Function.update (assignments s) f x.assign := by
  funext g
  unfold assignments
  by_cases same : g = f
  · rw [same, State.fn_setFn_same, Function.update_self]
  · rw [State.fn_setFn_of_ne _ _ same, Function.update_of_ne same]

theorem assignments_setFn_of_eq {s : State} {f : Fn} {x : FnState} (same : x.assign = (s.fn f).assign) :
    assignments (s.setFn f x) = assignments s := by
  rw [assignments_setFn, same]
  exact Function.update_eq_self f _

/-- Check 3 of R101, for a function. -/
theorem channelHeldByOther_fn {s : State} {f : Fn} {c : NodeChannel} :
    channelHeldByOther s (.fn f) c = false ↔ s.fmap.sensor ≠ some c ∧ ∀ g, g ≠ f → (s.fn g).assign ≠ some c := by
  simp only [channelHeldByOther, Bool.or_eq_false_iff, List.any_eq_false, Fn.mem_all, true_implies, Bool.and_eq_true,
    decide_eq_true_eq, not_and, MapKey.fn.injEq, not_not, ne_eq, reduceCtorEq, not_false_eq_true, decide_true,
    Bool.and_true, decide_eq_false_iff_not]
  refine and_comm.trans (and_congr_right fun _ => forall_congr' fun g => ?_)
  rw [eq_comm (a := f)]
  tauto

/-- Check 3 of R101, for SENSOR. -/
theorem channelHeldByOther_sensor {s : State} {c : NodeChannel} :
    channelHeldByOther s .sensor c = false ↔ ∀ g, (s.fn g).assign ≠ some c := by
  simp [channelHeldByOther, Fn.mem_all]

theorem Apart.update {a : Fn → Option NodeChannel} {sensor : Option NodeChannel} (d : Apart a sensor) {f : Fn}
    {ch : Option NodeChannel} (free : ∀ c, ch = some c → sensor ≠ some c ∧ ∀ g, g ≠ f → a g ≠ some c) :
    Apart (Function.update a f ch) sensor := by
  have held : ∀ g c, Function.update a f ch g = some c → (g = f ∧ ch = some c) ∨ (g ≠ f ∧ a g = some c) := by
    intro g c holds
    by_cases same : g = f
    · rw [same, Function.update_self] at holds
      exact .inl ⟨same, holds⟩
    · rw [Function.update_of_ne same] at holds
      exact .inr ⟨same, holds⟩
  refine ⟨fun g k c hg hk => ?_, fun g c hg => ?_⟩
  · rcases held g c hg with ⟨rfl, new⟩ | ⟨otherG, oldG⟩ <;> rcases held k c hk with ⟨rfl, _⟩ | ⟨otherK, oldK⟩
    · rfl
    · exact absurd oldK ((free c new).2 k otherK)
    · exact absurd oldG ((free c ‹_›).2 g otherG)
    · exact d.1 g k c oldG oldK
  · rcases held g c hg with ⟨_, new⟩ | ⟨_, old⟩
    · exact (free c new).1
    · exact d.2 g c old

/-- An update of every function's entry that keeps the assignments. -/
theorem assignments_tabulate {s : State} {fns : Fn → FnState} (same : ∀ f, (fns f).assign = (s.fn f).assign) :
    assignments { s with fmap := { s.fmap with fns := PerFn.tabulate fns } } = assignments s := by
  funext f
  unfold assignments State.fn
  rw [PerFn.get_tabulate]
  exact same f

theorem enterTransparent_fmap (s : State) :
    (enterTransparent s).fmap =
      { s.fmap with fns := PerFn.tabulate fun f => transparentFn (s.fmap.fns.get f) } := by
  have e := congrArg State.fmap (enterTransparent_only s)
  exact e

theorem channelsDistinct_kept : StepKept True fun s => Apart (assignments s) s.fmap.sensor where
  polishes _ _ _ _ := .inl trivial
  fn write p := by rw [assignments_setFn_of_eq write.assign]; exact p
  assign {s f ch} unheld p := by
    rw [assignments_setFn]
    refine p.update fun c (new : ch = some c) => ?_
    rw [new] at unheld
    exact channelHeldByOther_fn.mp unheld
  sensor {s ch} unheld p := by
    refine ⟨p.1, fun f c holds new => ?_⟩
    obtain rfl : ch = some c := new
    exact channelHeldByOther_sensor.mp unheld f holds
  clamped {s} p := by
    have same : assignments (clearAllClamped s) = assignments s := assignments_tabulate fun _ => rfl
    rw [same]
    exact p
  transparent {s} _ p := by
    have same : assignments (enterTransparent s) = assignments s := by
      unfold assignments State.fn
      rw [enterTransparent_fmap]
      exact assignments_tabulate fun _ => rfl
    rw [same, enterTransparent_fmap]
    exact p
  reset {s} p := by
    have same : assignments (stationResetBlocks s) = assignments s := assignments_tabulate (s := s) fun _ => rfl
    rw [same]
    exact p
  sends :=
    { told := fun {s} f tx e c _ p => by
        rw [assignments_setFn_of_eq (s := s) (x := { s.fn f with lastTx := tx, echo := e, clamped := c }) rfl]
        exact p }

/-- Settles O21: MAP_FUNCTION alone assigns, and only a node channel that no other key holds. -/
theorem stepKeepsChannelsDistinct : Obligations.StepKeepsChannelsDistinct := by
  intro s t distinct steps
  rw [channelsDistinct_iff] at distinct ⊢
  exact step_keeps channelsDistinct_kept
    (fun _ => (channelsDistinct_iff State.reset).mp reset_channelsDistinct) steps distinct

end Sys2Proof.Machine

/-! ## Queues keep their sizes, and histories their order (R45, R46, R125, R127, R160, R162, R177) -/

namespace Sys2Proof.Machine

/-- What the bounds of the queues are about. -/
def queuesOf (s : State) : State :=
  { State.reset with
    fwd := s.fwd
    mgmt := { State.reset.mgmt with
      requests := s.mgmt.requests, responses := s.mgmt.responses, heldBack := s.mgmt.heldBack
      events := s.mgmt.events } }

theorem queuesBounded_queuesOf (s : State) : QueuesBounded (queuesOf s) ↔ QueuesBounded s :=
  ⟨fun b => ⟨b.down, b.up, b.requests, b.responses, b.heldBack, b.events⟩,
    fun b => ⟨b.down, b.up, b.requests, b.responses, b.heldBack, b.events⟩⟩

theorem queuesBounded_kept : StepKept True fun s => QueuesBounded (queuesOf s) where
  polishes _ _ _ _ := .inl trivial
  events _ _ short p := ⟨p.down, p.up, p.requests, p.responses, p.heldBack, short p.events⟩
  fwd _ down up p := ⟨down p.down, up p.up, p.requests, p.responses, p.heldBack, p.events⟩
  transparent {s} _ p := by
    have fwd := congrArg State.fwd (enterTransparent_only s)
    have mgmt := enterTransparent_mgmt s
    unfold queuesOf
    rw [show (enterTransparent s).fwd = s.fwd from fwd, mgmt]
    exact p
  reset p := ⟨Nat.zero_le _, Nat.zero_le _, Nat.zero_le _, Nat.zero_le _, fun _ => rfl, Nat.zero_le _⟩
  requests _ short p := ⟨p.down, p.up, short p.requests, p.responses, p.heldBack, p.events⟩
  places {s} r free room p := by
    refine ⟨p.down, p.up, p.requests, ?_, fun held => absurd free held, p.events⟩
    show (s.mgmt.responses ++ [r]).length ≤ _
    rw [List.length_append]
    exact room
  holds _ none p := ⟨p.down, p.up, p.requests, p.responses, fun _ => none, p.events⟩
  sends :=
    { down := fun {s frame rest} waits p => by
        refine ⟨Nat.le_of_succ_le (m := _) ?_, p.up, p.requests, p.responses, p.heldBack, p.events⟩
        have le := p.down
        unfold queuesOf at le
        dsimp only at le
        rw [waits] at le
        exact le
      up := fun {s frame rest} waits p => by
        refine ⟨p.down, Nat.le_of_succ_le (m := _) ?_, p.requests, p.responses, p.heldBack, p.events⟩
        have le := p.up
        unfold queuesOf at le
        dsimp only at le
        rw [waits] at le
        exact le
      responses := fun {s r rest} waits p => by
        have le := p.responses
        have free := p.heldBack
        unfold queuesOf at le free
        dsimp only at le free
        rw [waits] at le free
        exact ⟨p.down, p.up, p.requests, Nat.le_of_succ_le le, fun held => (nomatch free held), p.events⟩
      events := fun n p =>
        ⟨p.down, p.up, p.requests, p.responses, p.heldBack, (List.drop_sublist n _).length_le.trans p.events⟩
      released := fun {s r} silent _ p => by
        refine ⟨p.down, p.up, p.requests, ?_, fun held => absurd rfl held, p.events⟩
        show (s.mgmt.responses ++ [r]).length ≤ _
        rw [silent]
        exact Nat.le_add_left 1 _ }

theorem historyOrdered_kept : StepKept True fun s => HistoryOrdered s.samplers.a ∧ HistoryOrdered s.samplers.b where
  polishes _ _ _ _ := .inl trivial
  sampler h x keeps p := by
    cases h
    · exact ⟨keeps p.1, p.2⟩
    · exact ⟨p.1, keeps p.2⟩
  transparent {s} _ p := by
    have samplers := congrArg State.samplers (enterTransparent_only s)
    rw [show (enterTransparent s).samplers = s.samplers from samplers]
    exact p
  reset p := by
    constructor <;> exact ⟨Nat.zero_le _, List.Pairwise.nil, (fun _ stands => nomatch stands), Nat.zero_le _⟩
  sends := {}

/-- Settles O56, queues and histories each by the induction over the steps. -/
theorem stepKeepsQueuesAndHistories : Obligations.StepKeepsQueuesAndHistories := by
  intro s t bounded ordered steps
  refine ⟨(queuesBounded_queuesOf t).mp (step_keeps queuesBounded_kept
    (fun _ => (queuesBounded_queuesOf State.reset).mpr reset_queuesBounded) steps
    ((queuesBounded_queuesOf s).mpr bounded)), ?_⟩
  obtain ⟨a, b⟩ := step_keeps historyOrdered_kept
    (fun _ => ⟨resetSampler_historyOrdered, resetSampler_historyOrdered⟩) steps ⟨ordered .a, ordered .b⟩
  intro h
  cases h
  · exact a
  · exact b

end Sys2Proof.Machine


/-! ## Ranges of the condition unit (R138, R142, R146) -/

namespace Sys2Proof.Machine

/-- A strictly rising stack of levels below n holds at most n (R142). -/
theorem length_le_of_rising {l : List Nat} {n : Nat} (rising : l.Pairwise (· < ·)) (below : ∀ x ∈ l, x < n) :
    l.length ≤ n := by
  have distinct : l.Nodup := rising.imp Nat.ne_of_lt
  have among : l ⊆ List.range n := fun x stands => List.mem_range.mpr (below x stands)
  simpa using (distinct.subperm among).length_le

/-- Ranges of settings and levels, as the two invariants have them. -/
def RangesOk (u : ConditionUnit) : Prop := SettingsOk u ∧ LevelsOk u

/-- Sources that keep severities and actions keep the settings' ranges. -/
theorem SettingsOk.of_eq {u v : ConditionUnit} (ok : SettingsOk u)
    (severity : ∀ k, (v.sources.get k).severity = (u.sources.get k).severity)
    (action : ∀ k, (v.sources.get k).action = (u.sources.get k).action) : SettingsOk v where
  low k := by rw [severity]; exact ok.low k
  high k := by rw [severity]; exact ok.high k
  supervision := by rw [severity]; exact ok.supervision
  portD := by rw [severity]; exact ok.portD
  reset k := by rw [action]; exact ok.reset k

theorem SettingsOk.write {s : State} {k : SourceId} {x : Source} (ok : SettingsOk s.cu)
    (write : SettingsWrite k (s.source k) x) : SettingsOk (s.setSource k x).cu := by
  have get (j : SourceId) : (s.setSource k x).cu.sources.get j = if j = k then x else s.source j := by
    by_cases same : j = k
    · rw [same, if_pos rfl]; exact State.source_setSource_same s k x
    · rw [if_neg same]; exact State.source_setSource_of_ne s x same
  have special (j : SourceId) (isOne : isSpecial j = true) :
      ((s.setSource k x).cu.sources.get j).severity = (s.source j).severity := by
    rw [get]
    split
    · subst j
      rcases write.severity with same | ⟨ordinary, _⟩
      · exact same
      · rw [isOne] at ordinary; cases ordinary
    · rfl
  have range (j : SourceId) :
      1 ≤ ((s.setSource k x).cu.sources.get j).severity ∧ ((s.setSource k x).cu.sources.get j).severity ≤ 15 := by
    rw [get]
    split
    · subst j
      rcases write.severity with same | ⟨_, range⟩
      · rw [same]; exact ⟨ok.low k, ok.high k⟩
      · exact range
    · exact ⟨ok.low j, ok.high j⟩
  refine ⟨fun j => (range j).1, fun j => (range j).2, (special _ rfl).trans ok.supervision,
    (special _ rfl).trans ok.portD, fun j => ?_⟩
  rw [get]
  split
  · subst j
    intro resets
    rcases write.action with same | notReset | isOne
    · exact ok.reset k (same ▸ resets)
    · exact absurd resets notReset
    · exact isOne
  · exact ok.reset j

theorem LevelsOk.of_eq {u v : ConditionUnit} (ok : LevelsOk u) (level : v.level = u.level) (stack : v.stack = u.stack) :
    LevelsOk v := by
  constructor
  · rw [level]; exact ok.level
  · rw [stack]; exact ok.rising
  · rw [stack, level]; exact ok.below
  · rw [stack]; exact ok.depth

/-- An empty stack under a level of at most 15. -/
theorem levelsOk_empty {u : ConditionUnit} (level : u.level ≤ 15) (empty : u.stack = []) : LevelsOk u := by
  constructor <;> simp [level, empty]

/-- A taking pushes L under a higher severity (R142, R143). -/
theorem LevelsOk.push {u : ConditionUnit} {v : Nat} (ok : LevelsOk u) (rises : u.level < v) (high : v ≤ 15)
    (sources : PerSource Source) : LevelsOk { sources, level := v, stack := u.stack ++ [u.level] } := by
  have below : ∀ x ∈ u.stack ++ [u.level], x < v := by
    intro x stands
    rcases List.mem_append.mp stands with old | new
    · exact (ok.below x old).trans rises
    · rw [List.mem_singleton.mp new]; exact rises
  have rising : (u.stack ++ [u.level]).Pairwise (· < ·) :=
    List.pairwise_append.mpr ⟨ok.rising, List.pairwise_singleton _ _, fun x old y new => by
      rw [List.mem_singleton.mp new]; exact ok.below x old⟩
  exact ⟨high, rising, below, (length_le_of_rising rising below).trans high⟩

/-- A resumption takes the top of the stack as L (R155). -/
theorem LevelsOk.pop {u : ConditionUnit} {top : Nat} (ok : LevelsOk u) (holds : u.stack.getLast? = some top)
    (sources : PerSource Source) : LevelsOk { sources, level := top, stack := u.stack.dropLast } := by
  have split : u.stack.dropLast ++ [top] = u.stack := List.dropLast_append_getLast? top holds
  have rising := ok.rising
  rw [← split, List.pairwise_append] at rising
  obtain ⟨lower, _, under⟩ := rising
  have topLow : top ≤ 15 := (ok.below top (List.mem_of_getLast? holds)).le.trans ok.level
  have below : ∀ x ∈ u.stack.dropLast, x < top := fun x stands => under x stands top (List.mem_singleton_self top)
  exact ⟨topLow, lower, below, (length_le_of_rising lower below).trans topLow⟩

/-- A report of a lost presence keeps settings and levels. -/
theorem RangesOk.losePresence {s : State} (ok : RangesOk s.cu) (k : SourceId) :
    RangesOk (losePresence k s).cu := by
  rw [losePresence_eq]
  refine ⟨ok.1.write ?_, ok.2.of_eq rfl rfl⟩
  unfold withoutPresence
  split
  · split <;> exact .of_eq rfl rfl
  · exact .of_eq rfl rfl

/-- What losses of presences keep of the condition unit, the entry to TRANSPARENT mode keeps (R116, R171). -/
theorem enterTransparent_cu_kept {Q : ConditionUnit → Prop}
    (loses : ∀ {s : State} (k : SourceId), Q s.cu → Q (losePresence k s).cu) {s : State} (q : Q s.cu) :
    Q (enterTransparent s).cu := by
  have groups (before : State) : ∀ (ks : List SourceId) {s : State}, Q s.cu → Q (ks.foldl (loseGroup before) s).cu := by
    intro ks
    induction ks with
    | nil => exact fun q => q
    | cons k ks ih =>
      intro s q
      refine ih ?_
      unfold loseGroup
      split
      · exact loses k q
      · exact q
  unfold enterTransparent endSupervisionLoss clearMonitors
  dsimp only
  split
  · exact loses _ (groups _ _ q)
  · exact groups _ _ q

theorem rangesOk_kept : StepKept True fun s => RangesOk s.cu where
  polishes _ _ _ _ := .inl trivial
  source write p := ⟨p.1.write write, p.2.of_eq rfl rfl⟩
  raise {s k} take p := by
    simp only [takeable, Bool.and_eq_true, decide_eq_true_eq] at take
    refine ⟨SettingsOk.write (s := { s with cu := { s.cu with level := _, stack := _ } })
      (p.1.of_eq (fun _ => rfl) fun _ => rfl) (.of_eq rfl rfl), ?_⟩
    exact p.2.push take.2 (p.1.high k) _
  level low p := ⟨p.1.of_eq (fun _ => rfl) fun _ => rfl, levelsOk_empty low rfl⟩
  resume holds p := ⟨p.1.of_eq (fun _ => rfl) fun _ => rfl, p.2.pop holds _⟩
  repend {s} p := by
    have same (k : SourceId) : ((repend s).cu.sources.get k).severity = (s.cu.sources.get k).severity ∧
        ((repend s).cu.sources.get k).action = (s.cu.sources.get k).action := by
      simp only [repend, PerSource.get_tabulate, rependSource]
      split <;> exact ⟨rfl, rfl⟩
    exact ⟨p.1.of_eq (fun k => (same k).1) fun k => (same k).2, p.2.of_eq rfl rfl⟩
  transparent _ p := enterTransparent_cu_kept (fun k q => q.losePresence k) p
  reset {s} p := by
    have same (k : SourceId) : (stationResetBlocks s).cu.sources.get k = stationResetSource (s.cu.sources.get k) :=
      PerSource.get_tabulate _ k
    exact ⟨p.1.of_eq (fun k => by rw [same]; rfl) fun k => by rw [same]; rfl, levelsOk_empty (Nat.zero_le _) rfl⟩
  sends := {}

/-- Settles O57: a taking pushes below what it takes, and a setting comes within its checks. -/
theorem stepKeepsConditionRanges : Obligations.StepKeepsConditionRanges := by
  intro s t settings levels steps
  exact step_keeps rangesOk_kept (fun _ => ⟨resetConditions_settingsOk, resetConditions_levelsOk⟩) steps
    ⟨settings, levels⟩

end Sys2Proof.Machine

/-! ## Ranges and rules of the store (R94, R97, R183, R187, R190) -/

namespace Sys2Proof.Machine

/-- What the rules of the store are about. -/
def storeOf (s : State) : State := { State.reset with store := s.store, cdr := s.cdr }

theorem storeKept_storeOf (s : State) : StoreKept (storeOf s) ↔ StoreKept s :=
  ⟨fun k => ⟨k.live, k.record, k.engine, k.padRem, k.diskRem, k.pending, k.staged⟩,
    fun k => ⟨k.live, k.record, k.engine, k.padRem, k.diskRem, k.pending, k.staged⟩⟩

theorem storeKept_kept : StepKept True fun s => StoreKept (storeOf s) where
  polishes _ _ _ _ := .inl trivial
  cdr {s} c keeps p := by
    have kept := (storeKept_storeOf _).mpr (keeps ((storeKept_storeOf s).mp p))
    exact kept
  store {s} x keeps p := by
    have kept := (storeKept_storeOf _).mpr (keeps ((storeKept_storeOf s).mp p))
    exact kept
  transparent {s} _ p := by
    have store := congrArg State.store (enterTransparent_only s)
    have cdr := congrArg State.cdr (enterTransparent_only s)
    unfold storeOf
    rw [show (enterTransparent s).store = s.store from store, show (enterTransparent s).cdr = s.cdr from cdr]
    exact p
  reset p := ⟨p.live, p.record, p.engine, p.padRem, p.diskRem, p.pending, p.staged⟩
  sends := {}

/-- A cut programming leaves the WEAR record as it was, or INVALID (R192). -/
theorem cutOff_wearRec {x : ParameterStore} {w : Wear} (valid : (cutOff x).wearRec = .valid w) :
    x.wearRec = .valid w := by
  unfold cutOff at valid
  split at valid
  · exact valid
  · rename_i write _
    obtain ⟨contents, origin⟩ := write
    cases contents with
    | wear _ => cases valid
    | _ => exact valid

theorem hardwareReset_storeKept {s : State} (k : StoreKept s) : StoreKept (hardwareResetState s) where
  live := noWear_ok
  record w valid := k.record w (cutOff_wearRec valid)
  engine _ _ programs := nomatch programs
  padRem := reset_storeKept.padRem
  diskRem := reset_storeKept.diskRem
  pending marked := nomatch marked
  staged _ staged := nomatch staged

/-- Settles O59: every write of store and remainders comes with its range. -/
theorem stepKeepsTheStore : Obligations.StepKeepsTheStore := by
  intro s t kept steps
  rw [← storeKept_storeOf] at kept ⊢
  refine step_keeps storeKept_kept (fun {s} p => ?_) steps kept
  rw [storeKept_storeOf] at p ⊢
  exact hardwareReset_storeKept p

end Sys2Proof.Machine


/-! ## The rules of the mode and of the heads' timers (R8, R12, R13, R108, R116, R168, R169, R175) -/

namespace Sys2Proof.Machine

/-- What the rules of the mode and of the timers are about. -/
def stationOf (s : State) : State :=
  { State.reset with
    base := { State.reset.base with phase := s.base.phase }
    mgmt := { State.reset.mgmt with
      mode := s.mgmt.mode, supTimer := s.mgmt.supTimer, supLoss := s.mgmt.supLoss, limits := s.mgmt.limits }
    slots := s.slots
    seqs := s.seqs
    fmap := { fns := s.fmap.fns, sensor := none } }

theorem modeKept_stationOf (s : State) : ModeKept (stationOf s) ↔ ModeKept s :=
  ⟨fun m => ⟨m.held, m.limits, m.slots, m.heads, m.timer, m.loss, m.inBand⟩,
    fun m => ⟨m.held, m.limits, m.slots, m.heads, m.timer, m.loss, m.inBand⟩⟩

theorem stationKept_stationOf (s : State) : StationKept (stationOf s) ↔ StationKept s :=
  ⟨fun k => ⟨(modeKept_stationOf s).mp k.mode, k.a, k.b⟩, fun k => ⟨(modeKept_stationOf s).mpr k.mode, k.a, k.b⟩⟩

theorem StationKept.timers {s : State} (k : StationKept s) (h : Head) : TimersKept (s.seq h) := by
  cases h
  · exact k.a
  · exact k.b

theorem mode_of_active {s : State} (active : s.active = true) : s.mgmt.mode = .active := by
  simpa [State.active] using active

/-- In ACTIVE mode, which has its limit block and which a part that runs alone has, the rules of TRANSPARENT mode say
nothing. -/
theorem modeKept_of_active {s : State} (active : s.mgmt.mode = .active) (limits : s.mgmt.limits.isSome = true)
    (runs : s.base.phase = .running) : ModeKept s := by
  constructor <;> simp [active, limits, runs]

theorem ModeKept.running_of_active {s : State} (k : ModeKept s) (active : s.mgmt.mode = .active) :
    s.base.phase = .running := by
  by_contra held
  rw [k.held held] at active
  cases active

/-- A write in ACTIVE mode that leaves the mode keeps its rules. -/
theorem ModeKept.of_active {s t : State} (k : ModeKept s) (active : s.active = true) (mode : t.mgmt.mode = s.mgmt.mode)
    (limits : t.mgmt.limits = s.mgmt.limits) (phase : t.base.phase = s.base.phase) : ModeKept t := by
  have active := mode_of_active active
  exact modeKept_of_active (mode.trans active) (limits ▸ k.limits active) (phase.trans (k.running_of_active active))

/-- A write of what the rules say about the functions. -/
theorem ModeKept.setFn {s : State} (k : ModeKept s) {f : Fn} {x : FnState}
    (rest : s.mgmt.mode = .transparent → x.dev = .inBand ∧ x.echo = 0) : ModeKept (s.setFn f x) where
  held := k.held
  limits := k.limits
  slots := k.slots
  heads := k.heads
  timer := k.timer
  loss := k.loss
  inBand transparent g := by
    by_cases same : g = f
    · rw [same, State.fn_setFn_same]; exact rest transparent
    · rw [State.fn_setFn_of_ne _ _ same]; exact k.inBand transparent g

theorem StationKept.setFn {s : State} (k : StationKept s) {f : Fn} {x : FnState}
    (rest : s.mgmt.mode = .transparent → x.dev = .inBand ∧ x.echo = 0) : StationKept (s.setFn f x) :=
  ⟨k.mode.setFn rest, k.a, k.b⟩

/-- A write of a function that comes with a `FnWrite` keeps a TRANSPARENT station's functions at rest. -/
theorem FnWrite.rest {s : State} {f : Fn} {x : FnState} (write : FnWrite s f x) (k : ModeKept s)
    (transparent : s.mgmt.mode = .transparent) : x.dev = .inBand ∧ x.echo = 0 := by
  have passive : s.active ≠ true := fun active => by rw [mode_of_active active] at transparent; cases transparent
  obtain ⟨dev, echo⟩ := k.inBand transparent f
  constructor
  · rcases write.dev with rest | moved | active
    · exact rest
    · exact absurd dev moved
    · exact absurd active passive
  · rcases write.echo with zero | same | active
    · exact zero
    · exact same.trans echo
    · exact absurd active passive

theorem headWorking_setSeq_of_ne {s : State} {h k : Head} (q : Sequencer) (other : k ≠ h) :
    headWorking (s.setSeq h q) k = headWorking s k := by
  rw [headWorking, headWorking, State.seq_setSeq_of_ne _ _ other]

theorem StationKept.setSeq {s : State} (k : StationKept s) {h : Head} {q : Sequencer} (write : SeqWrite s h q) :
    StationKept (s.setSeq h q) := by
  have timers (j : Head) : TimersKept ((s.setSeq h q).seq j) := by
    by_cases same : j = h
    · rw [same, State.seq_setSeq_same]; exact write.timers (k.timers h)
    · rw [State.seq_setSeq_of_ne _ _ same]; exact k.timers j
  refine ⟨⟨k.mode.held, k.mode.limits, k.mode.slots, fun transparent => ?_, k.mode.timer, k.mode.loss, k.mode.inBand⟩,
    timers .a, timers .b⟩
  have idle := k.mode.heads transparent
  simp only [anyHeadWorking, Bool.or_eq_false_iff] at idle
  have still (j : Head) : headWorking (s.setSeq h q) j = false := by
    by_cases same : j = h
    · subst same
      by_contra works
      rw [Bool.not_eq_false, headWorking, State.seq_setSeq_same] at works
      rcases write.works works with active | working
      · exact nomatch (mode_of_active active).symm.trans transparent
      · cases j
        · rw [idle.1] at working; cases working
        · rw [idle.2] at working; cases working
    · rw [headWorking_setSeq_of_ne _ same]
      cases j
      · exact idle.1
      · exact idle.2
  simp only [anyHeadWorking, still, Bool.or_self]

/-- The rules hold of a TRANSPARENT station whose slots, functions, heads and supervision are at rest. -/
theorem modeKept_of_transparent {s : State} (transparent : s.mgmt.mode = .transparent) (slots : s.slots = PerFn.fill none)
    (heads : anyHeadWorking s = false) (timer : s.mgmt.supTimer = none) (loss : s.mgmt.supLoss = false)
    (rest : ∀ f, (s.fn f).dev = .inBand ∧ (s.fn f).echo = 0) : ModeKept s where
  held _ := transparent
  limits active := by rw [transparent] at active; cases active
  slots _ f := by rw [slots, PerFn.get_fill]
  heads _ := heads
  timer _ := timer
  loss _ := loss
  inBand _ := rest

theorem stationReset_idle (q : Sequencer) :
    (stationResetSequencer q).state.working = false ∧ TimersKept (stationResetSequencer q) := by
  have rest : Rested (stationResetSequencer q) := ⟨rfl, rfl, fun _ stands => nomatch stands⟩
  refine ⟨?_, rest.timersKept⟩
  unfold stationResetSequencer
  dsimp only
  split <;> rfl

theorem stationKept_stationReset (s : State) : StationKept (stationResetBlocks s) := by
  refine ⟨modeKept_of_transparent rfl rfl ?_ rfl rfl fun f => ?_, (stationReset_idle _).2, (stationReset_idle _).2⟩
  · show ((stationResetSequencer s.seqs.a).state.working || (stationResetSequencer s.seqs.b).state.working) = false
    rw [(stationReset_idle _).1, (stationReset_idle _).1]
    rfl
  · have get : (stationResetBlocks s).fn f = stationResetFn (s.fn f) := PerFn.get_tabulate _ f
    rw [get]
    exact ⟨rfl, rfl⟩

theorem stationKept_enterTransparent {s : State} (idle : anyHeadWorking s = false) (k : StationKept s) :
    StationKept (enterTransparent s) := by
  have seqs := congrArg State.seqs (enterTransparent_only s)
  have slots := congrArg State.slots (enterTransparent_only s)
  have mgmt := enterTransparent_mgmt s
  have seq (h : Head) : (enterTransparent s).seq h = s.seq h := State.seq_of_seqs seqs h
  refine ⟨modeKept_of_transparent (by rw [mgmt]) slots ?_ (by rw [mgmt]) (by rw [mgmt]) fun f => ?_, ?_, ?_⟩
  · rw [anyHeadWorking, headWorking, headWorking, seq, seq]; exact idle
  · unfold State.fn
    rw [enterTransparent_fmap, PerFn.get_tabulate]
    exact ⟨rfl, rfl⟩
  · rw [seq]; exact k.a
  · rw [seq]; exact k.b

theorem stationKept_kept : StepKept False fun s => StationKept (stationOf s) where
  polishes h d p runs := .inr (((stationKept_stationOf _).mp p).timers h |>.running d runs)
  slots x active p := ⟨p.mode.of_active active rfl rfl rfl, p.a, p.b⟩
  seq write p := by
    have kept := ((stationKept_stationOf _).mp p).setSeq (write.resolve_left id)
    exact (stationKept_stationOf _).mpr kept
  fn write p := by
    have k := (stationKept_stationOf _).mp p
    exact (stationKept_stationOf _).mpr (k.setFn (write.rest k.mode))
  assign {s f ch} _ p := by
    have k := (stationKept_stationOf _).mp p
    exact (stationKept_stationOf _).mpr (k.setFn fun transparent => ⟨(k.mode.inBand transparent f).1, rfl⟩)
  clamped {s} p := by
    have k := (stationKept_stationOf _).mp p
    refine (stationKept_stationOf _).mpr ⟨⟨k.mode.held, k.mode.limits, k.mode.slots, k.mode.heads, k.mode.timer,
      k.mode.loss, fun transparent f => ?_⟩, k.a, k.b⟩
    have get : (clearAllClamped s).fn f = { s.fn f with clamped := false } := PerFn.get_tabulate _ f
    rw [get]
    exact k.mode.inBand transparent f
  super {s} t l cause p := by
    refine ⟨p.mode.of_active ?_ rfl rfl rfl, p.a, p.b⟩
    rcases cause with active | runs
    · exact active
    · cases mode : s.mgmt.mode with
      | active => exact active_eq_true (s := stationOf s) mode
      | transparent => exact absurd (p.mode.timer mode) runs
  active t written runs p := ⟨modeKept_of_active rfl written (of_decide_eq_true runs), p.a, p.b⟩
  transparent idle p := by
    have k := (stationKept_stationOf _).mp p
    exact (stationKept_stationOf _).mpr (stationKept_enterTransparent idle k)
  limits l _ p :=
    ⟨⟨p.mode.held, fun _ => rfl, p.mode.slots, p.mode.heads, p.mode.timer, p.mode.loss, p.mode.inBand⟩, p.a, p.b⟩
  reset {s} _ := (stationKept_stationOf _).mpr (stationKept_stationReset s)
  running p :=
    ⟨⟨fun held => absurd rfl held, p.mode.limits, p.mode.slots, p.mode.heads, p.mode.timer, p.mode.loss,
      p.mode.inBand⟩, p.a, p.b⟩
  sends :=
    { emptied := fun {s} f p => by
        refine ⟨⟨p.mode.held, p.mode.limits, fun transparent g => ?_, p.mode.heads, p.mode.timer, p.mode.loss,
          p.mode.inBand⟩, p.a, p.b⟩
        show (s.slots.set f none).get g = none
        by_cases same : g = f
        · rw [same, PerFn.get_set_same]
        · rw [PerFn.get_set_of_ne _ _ same]; exact p.mode.slots transparent g
      told := fun {s} f tx e c echo p => by
        have k := (stationKept_stationOf _).mp p
        exact (stationKept_stationOf _).mpr (k.setFn (FnWrite.rest (.of_eq rfl rfl echo) k.mode)) }
  releases {s} b held asserted p := by
    have transparent : s.mgmt.mode = .transparent :=
      p.mode.held (by rw [show (stationOf s).base.phase = _ from asserted]; rintro ⟨⟩)
    exact ⟨⟨fun _ => rfl, (fun active => nomatch active), fun _ => p.mode.slots transparent,
      fun _ => p.mode.heads transparent, fun _ => p.mode.timer transparent, fun _ => p.mode.loss transparent,
      fun _ => p.mode.inBand transparent⟩, p.a, p.b⟩

/-- Settles O58: a head is put to work in ACTIVE mode alone, or works already; the timers move by the table of 01
section 1.3. -/
theorem stepKeepsModeAndTimers : Obligations.StepKeepsModeAndTimers := by
  intro s t kept steps
  rw [← stationKept_stationOf] at kept ⊢
  exact step_keeps stationKept_kept
    (fun _ => (stationKept_stationOf _).mpr ⟨⟨fun _ => rfl, (fun active => nomatch active),
      reset_modeKept.slots, reset_modeKept.heads, reset_modeKept.timer, reset_modeKept.loss, reset_modeKept.inBand⟩,
      resetSequencer_timersKept, resetSequencer_timersKept⟩) steps kept

end Sys2Proof.Machine


/-! ## Requests in general (R160 to R163, R197) -/

namespace Sys2Proof.Machine

/-- What serves a request: a service of the catalogue, or that of a payload which names no request (R161, R163). -/
inductive IsService : (Request → State → State × Answer) → Prop
  | named {n : Nat} {serve : Request → State → State × Answer} (code : serveCode n = some serve) : IsService serve
  | short : IsService serveShort
  | unknown : IsService serveUnknown

theorem isService_payload (payload : List Byte) : IsService (servePayload payload) := by
  unfold servePayload
  split
  · rename_i code _ _
    cases serves : serveCode code.toNat with
    | none => exact .unknown
    | some serve => exact .named serves
  · exact .short

theorem isService_nameless (payload : List Byte) : IsService (serveNameless payload) := by
  unfold serveNameless
  split
  · exact .short
  · exact .unknown

/-- A payload that names no request, taken at once. -/
theorem exec_unknownRequest_of_taken {origin : Nat} {payload : List Byte} {s : State} (runs : isRunning s = true)
    (takes : takesAtOnce s = true) :
    exec (.unknownRequest origin payload) s =
      .next (completeRequest (serveNameless payload) (payloadRequest origin payload) s) := by
  show (.next _ : Result) = _
  rw [if_pos runs, if_pos takes]

/-- Every request command that is taken at once is served to its end by a service (R160). -/
theorem exec_of_request {i : Instr} {r : Request} (carries : requestOf i = some r) {s : State}
    (runs : isRunning s = true) (takes : takesAtOnce s = true) :
    ∃ serve, IsService serve ∧ exec i s = .next (completeRequest serve r s) := by
  rcases codeOf_or_unknown carries with ⟨n, code⟩ | ⟨origin, payload, rfl⟩
  · exact ⟨_, isService_payload _, exec_of_code code carries runs takes⟩
  · cases carries
    exact ⟨_, isService_nameless payload, exec_unknownRequest_of_taken runs takes⟩

theorem IsService.keeps {serve : Request → State → State × Answer} (service : IsService serve) {free : Prop}
    {P : State → Prop} (K : Kept free P) : ServiceKeeps P serve := by
  cases service with
  | named code => exact serveCode_keeps K code
  | short => exact serveShort_keeps K
  | unknown => exact serveUnknown_keeps K

theorem IsService.passes {serve : Request → State → State × Answer} (service : IsService serve) (r : Request) :
    PassesOver (serve r) := by
  cases service with
  | named code => exact passes_code code r
  | short => exact passes_short r
  | unknown => exact passes_unknown r

/-- An answer is DONE, or the state is as it was found, with no results. -/
def DoneOrRefused (before : State) (after : State × Answer) : Prop :=
  after.2.outcome = .done ∨ (after.1 = before ∧ after.2.results = [])

theorem doneOrRefused_refuse (s : State) (o : OutcomeCode) : DoneOrRefused s (refuse s o) := .inr ⟨rfl, rfl⟩

theorem doneOrRefused_done {s t : State} {results : List Byte} :
    DoneOrRefused s (t, { outcome := .done, results }) := .inl rfl

theorem headRequest_doneOrRefused (accepts : HeadState → Bool) (effect : Head → State → State) (a : Nat) (s : State) :
    DoneOrRefused s (headRequest accepts effect a s) := by
  unfold headRequest
  split
  · exact doneOrRefused_refuse s _
  · split
    · exact doneOrRefused_done
    · exact doneOrRefused_refuse s _

theorem ownSetSource_doneOrRefused (r : Request) (a : SetSourceArgs) (s : State) :
    DoneOrRefused s (ownSetSource r a s) := by
  unfold ownSetSource setSpecial setOrdinary
  repeat' split
  all_goals first | exact doneOrRefused_refuse s _ | exact doneOrRefused_done

theorem ownStoreStage_doneOrRefused (r : Request) (a : StagedArgs) (s : State) :
    DoneOrRefused s (ownStoreStage r a s) := by
  unfold ownStoreStage
  repeat' split
  all_goals first | exact doneOrRefused_refuse s _ | exact doneOrRefused_done

/-- What a service answers when it is not DONE, and what it then leaves: the state it found, or the one supervision left
(R161). -/
def Answers (serve : Request → State → State × Answer) : Prop :=
  ∀ (r : Request) (s : State), DoneOrRefused s (serve r s) ∨ DoneOrRefused (superviseRequest r.origin s) (serve r s)

theorem serveRequest_answers {α : Type} {shape : Walk α} {owner : Request → α → State → State × Answer}
    (owns : ∀ r a s, DoneOrRefused s (owner r a s)) : Answers (serveRequest shape owner) := by
  intro r s
  unfold serveRequest
  split
  · split
    · exact .inr (doneOrRefused_refuse _ _)
    · exact .inr (owns _ _ _)
  · exact .inl (doneOrRefused_refuse _ _)

theorem serveCode_answers {n : Nat} {serve : Request → State → State × Answer} (code : serveCode n = some serve) :
    Answers serve := by
  unfold serveCode at code
  split at code
  all_goals cases code
  case h_15 => exact serveRequest_answers fun _ => headRequest_doneOrRefused _ _
  case h_16 => exact serveRequest_answers fun _ => headRequest_doneOrRefused _ _
  case h_17 => exact serveRequest_answers fun _ => headRequest_doneOrRefused _ _
  case h_18 => exact serveRequest_answers fun _ => headRequest_doneOrRefused _ _
  case h_21 => exact serveRequest_answers ownSetSource_doneOrRefused
  case h_30 => exact serveRequest_answers ownStoreStage_doneOrRefused
  all_goals
    refine serveRequest_answers fun r a s => ?_
    simp only [ownIdentify, ownHeartbeat, ownReadState, ownSetMode, ownWriteLimits, ownReadLimits, ownMapFunction,
      ownLoadZoneMap, ownLoadStep, ownLoadBlend, ownLoadConditioning, ownLoadPadService, ownLoadProgram, ownStartHead,
      ownReadResult, ownReadProfile, ownClearSource, ownSimulateSource, ownReadConditions, ownSetLevel, ownResumeLevel,
      ownReleaseHold, ownAbortAll, ownStoreRead, ownStoreCommit, ownStoreReload, ownReplaceConsumable, ownStationReset]
    repeat' split
    all_goals first | exact doneOrRefused_refuse s _ | exact doneOrRefused_done

theorem IsService.answers {serve : Request → State → State × Answer} (service : IsService serve) : Answers serve := by
  cases service with
  | named code => exact serveCode_answers code
  | short =>
    intro r s
    unfold serveShort
    split
    · exact .inr (doneOrRefused_refuse _ _)
    · exact .inl (doneOrRefused_refuse _ _)
  | unknown =>
    intro r s
    unfold serveUnknown
    split
    · exact .inr (doneOrRefused_refuse _ _)
    · exact .inl (doneOrRefused_refuse _ _)

theorem isRunning_beginRequest (s : State) : isRunning (beginRequest s) = isRunning s := rfl

/-- Settles O5: a service answers once, and nothing it does touches the responses but a station reset. -/
theorem requestsAreAnsweredOnce : Obligations.RequestsAreAnsweredOnce := by
  intro i r s carries runs takes
  obtain ⟨serve, service, execs⟩ := exec_of_request carries runs takes
  have can := takes
  simp only [takesAtOnce, canTake, Bool.and_eq_true, Option.isNone_iff_eq_none, decide_eq_true_eq,
    List.isEmpty_iff] at can
  obtain ⟨⟨free, _⟩, noneWaits⟩ := can
  obtain ⟨held, plain, reset⟩ := service.keeps (awaits_kept s.mgmt.responses) r (s := beginRequest s) runs
    ⟨free, fun _ => rfl, nofun⟩
  refine ⟨(serve r (beginRequest s)).2.outcome, (serve r (beginRequest s)).2.results, (serve r (beginRequest s)).1,
    ⟨held, (service.passes r).requests noneWaits⟩, fun untouched => ⟨plain untouched, ?_⟩,
    fun wasReset => ⟨reset wasReset, ?_⟩, fun refused => ?_⟩
  · rw [execs, completeRequest, respond_plain untouched, plain untouched]
  · rw [execs, completeRequest]
    simp only [respond, wasReset, if_true]
  · rcases service.answers r (beginRequest s) with (done | ⟨same, empty⟩) | (done | ⟨same, empty⟩)
    · exact absurd done refused
    · exact ⟨empty, .inl same⟩
    · exact absurd done refused
    · exact ⟨empty, .inr same⟩

/-! ## Requests turned away (R161) -/

theorem serveRequest_of_foreign {α : Type} {shape : Walk α} {owner : Request → α → State → State × Answer} {r : Request}
    (foreign : originServed r.origin = false) (s : State) : serveRequest shape owner r s = refuse s .origin := by
  unfold serveRequest
  rw [foreign]
  rfl

/-- A service turns a foreign origin away (R161, step 1). -/
theorem IsService.of_foreign {serve : Request → State → State × Answer} (service : IsService serve) {r : Request}
    (foreign : originServed r.origin = false) (s : State) : serve r s = refuse s .origin := by
  cases service with
  | named code =>
    unfold serveCode at code
    split at code
    all_goals cases code
    all_goals exact serveRequest_of_foreign foreign s
  | short => unfold serveShort; rw [foreign]; rfl
  | unknown => unfold serveUnknown; rw [foreign]; rfl

theorem serveNameless_of_served {payload : List Byte} {r : Request} {s : State} (origin : originServed r.origin = true) :
    serveNameless payload r (beginRequest s) =
      refuse (served r s) (if payload.length < 2 then .invalid else .unknown) := by
  unfold serveNameless
  split
  · simp only [serveShort, origin, if_true, served]
  · simp only [serveUnknown, origin, if_true, served]

/-- Settles O6, by the checks before an owning rule. -/
theorem turnedAwayBeforeTheOwningRule : Obligations.TurnedAwayBeforeTheOwningRule := by
  refine ⟨fun i r s carries runs takes notTool notInterlock => ?_, fun origin payload s adm => ?_⟩
  · obtain ⟨serve, service, execs⟩ := exec_of_request carries runs takes
    have foreign : originServed r.origin = false := by
      simp [originServed, toolOrigin, interlockOrigin, notTool, notInterlock]
    rw [execs, completeRequest, service.of_foreign foreign, refuse, respond_plain rfl]
    rfl
  · rw [exec_unknownRequest_of_taken adm.1 adm.2.1, completeRequest, serveNameless_of_served adm.2.2, refuse,
      respond_plain (served_resetTaken _ s)]
    rfl

/-! ## Requests that waited (R160, R163, R197) -/

theorem payloadRequest_of_code (r : Request) (n : Nat) :
    payloadRequest r.origin (BitVec.ofNat 8 n :: r.tag :: r.args) = r := rfl

theorem takesAtOnce_of_canTake {s : State} (takes : canTake s = true) : takesAtOnce (s.withRequests []) = true := by
  unfold takesAtOnce
  rw [Bool.and_eq_true]
  exact ⟨takes, rfl⟩

/-- The command of a payload that waited is served as the payload is. -/
theorem exec_of_payload {i : Instr} {r : Request} {p : List Byte} {s : State} (carries : requestOf i = some r)
    (spells : (∃ n, codeOf i = some n ∧ p = BitVec.ofNat 8 n :: r.tag :: r.args) ∨
      (i = .unknownRequest r.origin p ∧ ∀ c tag args, p = c :: tag :: args → c.toNat = 0 ∨ 34 < c.toNat))
    (runs : isRunning s = true) (takes : canTake s = true) :
    payloadRequest r.origin p = r ∧
      exec i (s.withRequests []) = .next (completeRequest (servePayload p) r (s.withRequests [])) := by
  rcases spells with ⟨n, code, rfl⟩ | ⟨rfl, nameless⟩
  · exact ⟨rfl, exec_of_code code carries runs (takesAtOnce_of_canTake takes)⟩
  · have same : payloadRequest r.origin p = r := Option.some.inj carries
    refine ⟨same, ?_⟩
    rw [exec_unknownRequest_of_taken (s := s.withRequests []) runs (takesAtOnce_of_canTake takes), same, servePayload_of_nameless p nameless]

/-- Settles O8: the head of the queue is served as its command is, and the rest is passed over. -/
theorem queuedRequestsMeanTheSame : Obligations.QueuedRequestsMeanTheSame := by
  constructor
  · intro i n r s code carries runs takes waits
    have alone := exec_of_code code carries (s := s.withRequests []) runs (takesAtOnce_of_canTake takes)
    refine Eq.trans ?_ alone.symm
    unfold takeQueued
    rw [waits]
    rfl
  · intro i r p rest s carries spells runs takes waits
    obtain ⟨same, execs⟩ := exec_of_payload carries spells runs takes
    obtain ⟨a, effect, empty, alone, taken⟩ := takeQueued_head waits
    dsimp only at alone taken
    rw [same] at alone taken
    exact ⟨a, effect, empty, execs.trans (congrArg Host.Outcome.next alone), taken⟩

end Sys2Proof.Machine


/-! ## Requests of the management unit (R153, R166 to R174, R186) -/

namespace Sys2Proof.Machine

/-! What an owning rule finds, block by block. -/

theorem served_keepsHeads (r : Request) (s : State) : keepsHeads s (served r s) :=
  ⟨served_seqs r s, served_steps r s, served_samplers r s, served_comps r s⟩

theorem served_keepsPad (r : Request) (s : State) : keepsPad s (served r s) :=
  ⟨served_arb r s, served_dose r s, served_cdr r s⟩

theorem served_keepsPorts (r : Request) (s : State) : keepsPorts s (served r s) :=
  ⟨served_portU r s, served_portD r s, served_fwd r s⟩

theorem served_keepsBase (r : Request) (s : State) : keepsBase s (served r s) :=
  ⟨served_base r s, served_pending r s, served_choice r s⟩

@[simp] theorem served_fn (r : Request) (s : State) (f : Fn) : (served r s).fn f = s.fn f :=
  served_field (fun t => t.fn f) (fun _ _ _ => rfl) r s

@[simp] theorem served_headWorking (r : Request) (s : State) (h : Head) :
    headWorking (served r s) h = headWorking s h := by rw [headWorking, served_seq]; rfl

@[simp] theorem served_partAuthority (r : Request) (s : State) (f : Fn) :
    partAuthority (served r s) f = partAuthority s f := by
  cases f <;> simp only [partAuthority, served_active, served_headWorking, served_arb]

/-- A request whose owning rule reads the state and leaves it. -/
theorem request_reads {α : Type} {shape : Walk α} {owner : Request → α → State → State × Answer} {r : Request}
    {s : State} {x : α} {results : List Byte} (code : Nat) (adm : Admitted r s) (walk : wholeWalk shape r.args = some x)
    (reads : owner r x (served r s) = (served r s, doneWith results)) :
    (.next (request code (serveRequest shape owner) r s) : Result) = completes r .done results (served r s) :=
  request_completes code adm walk reads (served_resetTaken r s)

/-! Reads (R153, R166, R174, R186). -/

theorem wholeWalk_readState_key (b : Byte) : wholeWalk readStateArgs [3, b] = some ⟨3, some b.toNat⟩ := rfl

theorem wholeWalk_readConditions_source (b : Byte) : wholeWalk readConditionsArgs [2, b] = some ⟨2, b.toNat⟩ := rfl

theorem wholeWalk_storeRead (b c : Byte) : wholeWalk storeReadArgs [b, c] = some ⟨b.toNat, c.toNat⟩ := rfl

theorem padSection_served (r : Request) (s : State) : padSection (served r s) = padSection s := by
  simp only [padSection, served_arb, served_dose, served_cdr, served_store]

theorem conditionSummary_eq (s : State) :
    conditionSummary s =
      BitVec.ofNat 8 s.cu.level :: BitVec.ofNat 8 s.cu.stack.length :: s.cu.stack.map (BitVec.ofNat 8) ++
        [if s.arb.hold then 1 else 0] := by
  have bytes (xs : List Nat) : xs.flatMap u8 = xs.map (BitVec.ofNat 8) := by
    rw [List.map_eq_flatMap]; rfl
  simp [conditionSummary, counted, yes_eq, u8, ← bytes]

theorem opt_some {α : Type} (write : α → List Byte) (x : α) : opt write (some x) = 1 :: write x := rfl

/-- Settles O12: none of these owning rules writes. -/
theorem stateReadsChangeNothing : Obligations.StateReadsChangeNothing := by
  intro r s adm
  refine ⟨?unwritten, ?written, ?station, ?pad, ?sensor, ?summary, ?source, ?stored, ?working⟩
  case unwritten =>
    intro args unwritten
    refine noArgs_request_read 6 adm args ?_
    rw [ownReadLimits, served_limits, unwritten]
    rfl
  case written =>
    intro l args written
    refine noArgs_request_read 6 adm args ?_
    rw [ownReadLimits, served_limits, written, opt_some]
  case station => exact fun args => request_reads (x := ⟨1, none⟩) 3 adm (by rw [args]; rfl) rfl
  case pad =>
    intro args
    refine request_reads (x := ⟨2, none⟩) 3 adm (by rw [args]; rfl) ?_
    simp only [ownReadState, sectionOfCode, padSection_served]
  case sensor =>
    intro args
    refine request_reads (x := ⟨3, some 22⟩) 3 adm (by rw [args]; rfl) ?_
    have read : ownReadState r ⟨3, some 22⟩ (served r s) =
        (served r s, doneWith (opt channelBytes (served r s).fmap.sensor)) := rfl
    rw [read, served_fmap]
    cases s.fmap.sensor <;> rfl
  case summary =>
    intro args
    refine request_reads (x := ⟨1, 0⟩) 24 adm (by rw [args]; rfl) ?_
    have reads := conditionSummary_eq (served r s)
    rw [served_level, served_stack, served_arb] at reads
    rw [← reads]
    rfl
  case source =>
    intro k args
    refine request_reads (x := ⟨2, sourceNumber k⟩) 24 adm
      (by rw [args, wholeWalk_readConditions_source, byte_sourceNumber]) ?_
    simp [ownReadConditions, partSummary, partSource]
  case stored =>
    intro x args
    refine request_reads (x := ⟨recordCode x, 1⟩) 29 adm (by rw [args, wholeWalk_storeRead, byte_recordCode]; rfl) ?_
    simp [ownStoreRead, copyStored]
  case working =>
    intro x args
    refine request_reads (x := ⟨recordCode x, 2⟩) 29 adm (by rw [args, wholeWalk_storeRead, byte_recordCode]; rfl) ?_
    simp [ownStoreRead, copyStored, copyWorking]

/-! Clamped flags (R166, R167). -/

theorem functionSection_served (r : Request) (s : State) (f : Fn) :
    functionSection (served r s) f = functionSection s f := by
  simp only [functionSection, served_fn, served_partAuthority, served_slots]

theorem ownReadState_function (r : Request) (f : Fn) (s : State) :
    ownReadState r ⟨3, some (fnCode f)⟩ s = (clearClamped f s, doneWith (functionSection s f)) := by
  simp [ownReadState, sectionOfCode, clearKeyClamped, keySection]

theorem clearAllClamped_fn (s : State) (f : Fn) : (clearAllClamped s).fn f = { s.fn f with clamped := false } :=
  PerFn.get_tabulate _ f

/-- Settles O13: the flags that a section reports are cleared, and nothing else is written. -/
theorem readStateClearsClampedFlags : Obligations.ReadStateClearsClampedFlags := by
  intro r s adm
  constructor
  · intro f args
    refine ⟨clearClamped f (served r s), ?_, ?_, fun g other => ?_, ?_, served_slots r s, served_keepsHeads r s,
      served_keepsPad r s, served_keepsPorts r s, served_keepsBase r s, served_store r s, rfl, rfl⟩
    · refine request_completes 3 adm (by rw [args]; exact wholeWalk_readState_key _) ?_ (served_resetTaken r s)
      rw [byte_fnCode, ownReadState_function, functionSection_served]
      rfl
    · rw [clearClamped, State.fn_setFn_same, served_fn]
    · rw [clearClamped, State.fn_setFn_of_ne _ _ other, served_fn]
    · show (served r s).fmap.sensor = _
      rw [served_fmap]
  · intro args
    refine ⟨clearAllClamped (served r s), ?_, fun g => ?_, ?_, served_slots r s, served_keepsHeads r s,
      served_keepsPad r s, served_keepsPorts r s, served_keepsBase r s, served_store r s, rfl, rfl⟩
    · refine request_completes (x := ⟨4, none⟩) 3 adm (by rw [args]; rfl) ?_ (served_resetTaken r s)
      simp [ownReadState, sectionOfCode, clampedSet, doneWith]
    · rw [clearAllClamped_fn, served_fn]
    · show (served r s).fmap.sensor = _
      rw [served_fmap]

end Sys2Proof.Machine


/-! ## SET_MODE and WRITE_LIMITS (R169 to R173) -/

namespace Sys2Proof.Machine

/-- A request whose owning rule answers `a` and leaves `t`, with or without a station reset. -/
theorem request_effect {α : Type} {shape : Walk α} {owner : Request → α → State → State × Answer} {r : Request}
    {s t : State} {x : α} {a : Answer} (code : Nat) (adm : Admitted r s) (walk : wholeWalk shape r.args = some x)
    (effect : owner r x (served r s) = (t, a)) :
    (.next (request code (serveRequest shape owner) r s) : Result) = .next (settle (respond r.origin r.tag a t)) := by
  rw [request_of_admitted code _ adm, serveRequest_of_walk adm walk, effect]

theorem fromTool_of_tool {r : Request} (tool : r.origin = 0) : fromTool r = true := decide_eq_true tool

theorem fromTool_of_interlock {r : Request} (interlock : r.origin = 62) : fromTool r = false :=
  decide_eq_false (by rw [interlock]; decide)

theorem served_of_interlock_origin {r : Request} (s : State) (interlock : r.origin = 62) :
    served r s = beginRequest s := served_of_interlock s (by omega)

/-- Settles O15, check by check. -/
theorem limitsAreWrittenOnce : Obligations.LimitsAreWrittenOnce := by
  intro r s l adm walk
  refine ⟨fun tool => ?_, fun interlock written => ?_, fun interlock unwritten bad => ?_,
    fun interlock unwritten good => ?_⟩
  · exact request_refused 5 adm walk (by simp only [ownWriteLimits, fromTool_of_tool tool, if_true])
  · rw [← served_of_interlock_origin s interlock]
    refine request_refused 5 adm walk ?_
    simp [ownWriteLimits, fromTool_of_interlock interlock, Option.isSome_iff_ne_none, written]
  · rw [← served_of_interlock_origin s interlock]
    refine request_refused 5 adm walk ?_
    simp [ownWriteLimits, fromTool_of_interlock interlock, unwritten, bad]
  · refine request_effect 5 adm walk ?_
    rw [served_of_interlock_origin s interlock]
    simp [ownWriteLimits, fromTool_of_interlock interlock, beginRequest, unwritten, good, doneAnswer]

/-! The presences that the entry to TRANSPARENT mode ends (R115, R116, R171). -/

theorem losePresence_source (k j : SourceId) (s : State) :
    (losePresence k s).source j = if j = k then withoutPresence (s.source j) else s.source j := by
  rw [losePresence_eq]
  split
  · subst j; exact s.source_setSource_same k _
  · exact s.source_setSource_of_ne _ ‹_›

/-- A group of the deviation sources is DEVIATED when one of its functions is (R115). -/
theorem groupDeviated_iff {s : State} {k : SourceId} :
    groupDeviated s k = true ↔ ∃ f, deviationSource f = some k ∧ (s.fn f).dev = .deviated := by
  simp [groupDeviated, Fn.mem_all]

theorem groupDeviated_congr {s t : State} (dev : ∀ f, (t.fn f).dev = (s.fn f).dev) (k : SourceId) :
    groupDeviated t k = groupDeviated s k := by
  simp only [groupDeviated, dev]

theorem mem_groups_of_deviationSource {f : Fn} {k : SourceId} (feeds : deviationSource f = some k) :
    k ∈ [SourceId.pressureDevA, .pressureDevB, .flowDev] := by
  unfold deviationSource at feeds
  split at feeds <;> cases feeds <;> simp

theorem loseGroup_source (before s : State) (k j : SourceId) :
    (loseGroup before s k).source j =
      if j = k ∧ groupDeviated before k = true then withoutPresence (s.source j) else s.source j := by
  unfold loseGroup
  split
  · rename_i deviated
    rw [losePresence_source]
    simp only [deviated, and_true]
  · rename_i calm
    rw [if_neg fun both => calm both.2]

theorem foldl_loseGroup_source (before : State) (j : SourceId) (ks : List SourceId) (s : State) (distinct : ks.Nodup) :
    (ks.foldl (loseGroup before) s).source j =
      if j ∈ ks ∧ groupDeviated before j = true then withoutPresence (s.source j) else s.source j := by
  induction ks generalizing s with
  | nil => simp
  | cons k ks ih =>
    obtain ⟨apart, distinct⟩ := List.nodup_cons.mp distinct
    rw [List.foldl_cons, ih _ distinct, loseGroup_source]
    by_cases same : j = k
    · subst j
      simp [apart]
    · simp [same]

theorem clearMonitors_source (s : State) (j : SourceId) :
    (clearMonitors s).source j = if groupDeviated s j = true then withoutPresence (s.source j) else s.source j := by
  refine (foldl_loseGroup_source s j [.pressureDevA, .pressureDevB, .flowDev] _ (by decide)).trans ?_
  by_cases deviated : groupDeviated s j = true
  · obtain ⟨f, feeds, _⟩ := groupDeviated_iff.mp deviated
    rw [if_pos ⟨mem_groups_of_deviationSource feeds, deviated⟩, if_pos deviated]
    rfl
  · rw [if_neg fun both => deviated both.2, if_neg deviated]
    rfl

theorem not_groupDeviated_supervisionLoss (s : State) : groupDeviated s .supervisionLoss = false := by
  by_contra deviated
  obtain ⟨f, feeds, _⟩ := groupDeviated_iff.mp (Bool.not_eq_false _ ▸ deviated)
  simpa using mem_groups_of_deviationSource feeds

/-- Each source at the entry to TRANSPARENT mode: that of a DEVIATED group, and SUPERVISION_LOSS when present (R116, R171). -/
theorem enterTransparent_source (s : State) (j : SourceId) :
    (enterTransparent s).source j =
      if (j = .supervisionLoss ∧ s.mgmt.supLoss = true) ∨ groupDeviated s j = true then withoutPresence (s.source j)
      else s.source j := by
  let m : State := { s with mgmt := { s.mgmt with mode := .transparent } }
  have cleared := clearMonitors_source m j
  have loss : (clearMonitors m).mgmt.supLoss = s.mgmt.supLoss := by rw [clearMonitors_mgmt]
  have groups : groupDeviated m j = groupDeviated s j := rfl
  have source : m.source j = s.source j := rfl
  rw [groups, source] at cleared
  unfold enterTransparent endSupervisionLoss
  dsimp only
  by_cases lost : s.mgmt.supLoss = true
  · rw [if_pos (loss.trans lost), losePresence_source]
    by_cases same : j = .supervisionLoss
    · rw [if_pos same, if_pos (.inl ⟨same, lost⟩)]
      refine congrArg withoutPresence (cleared.trans ?_)
      rw [same, not_groupDeviated_supervisionLoss]
      rfl
    · rw [if_neg same]
      refine cleared.trans ?_
      simp [same]
  · rw [if_neg fun l => lost (loss.symm.trans l)]
    refine cleared.trans ?_
    simp [lost]

theorem enterTransparent_level (s : State) :
    (enterTransparent s).cu.level = s.cu.level ∧ (enterTransparent s).cu.stack = s.cu.stack :=
  enterTransparent_cu_kept (Q := fun u => u.level = s.cu.level ∧ u.stack = s.cu.stack)
    (fun k q => by rw [losePresence_eq]; exact q) ⟨rfl, rfl⟩

theorem enterTransparent_slots (s : State) : (enterTransparent s).slots = PerFn.fill none := by
  have slots := congrArg State.slots (enterTransparent_only s)
  exact slots

/-! SET_MODE (R169). -/

theorem modeOfCode_of_ne {b : Byte} (notZero : b ≠ 0) (notOne : b ≠ 1) : modeOfCode b.toNat = none := by
  have zero : b.toNat ≠ 0 := fun e => notZero (BitVec.eq_of_toNat_eq e)
  have one : b.toNat ≠ 1 := fun e => notOne (BitVec.eq_of_toNat_eq e)
  unfold modeOfCode
  split <;> simp_all

theorem enterActive_of_limits {s : State} {l : LimitBlock} (written : s.mgmt.limits = some l) :
    enterActive s =
      if s.arb.hold then
        writeHoldValues { s with mgmt := { s.mgmt with
          mode := .active, supTimer := some (s.base.time + BitVec.ofNat 32 l.supervisionTimeout) } }
      else
        { s with mgmt := { s.mgmt with
          mode := .active, supTimer := some (s.base.time + BitVec.ofNat 32 l.supervisionTimeout) } } := by
  rw [← State.lim_eq written]
  rfl

theorem modeChanged_active (origin : Nat) (s : State) :
    modeChanged .active origin s = queueEvent .modeChanged none [1, BitVec.ofNat 32 origin] s := rfl

theorem modeChanged_transparent (origin : Nat) (s : State) :
    modeChanged .transparent origin s = queueEvent .modeChanged none [0, BitVec.ofNat 32 origin] s := rfl

theorem ownSetMode_same {r : Request} {s : State} {a : Nat} {m : Mode} (names : modeOfCode a = some m)
    (same : s.mgmt.mode = m) : ownSetMode r a s = (s, doneAnswer) := by
  simp only [ownSetMode, names, same, if_true]

theorem ownSetMode_active {r : Request} {s : State} (transparent : s.mgmt.mode = .transparent) :
    ownSetMode r 1 s =
      if s.mgmt.limits.isNone then refuse s .notReady
      else (modeChanged .active r.origin (enterActive s), doneAnswer) := by
  simp only [ownSetMode, modeOfCode, transparent, reduceCtorEq, if_false]

theorem ownSetMode_transparent {r : Request} {s : State} (active : s.mgmt.mode = .active) :
    ownSetMode r 0 s =
      if anyHeadWorking s || s.arb.hold then refuse s .state
      else (modeChanged .transparent r.origin (enterTransparent s), doneAnswer) := by
  simp only [ownSetMode, modeOfCode, active, reduceCtorEq, if_false]

@[simp] theorem served_groupDeviated (r : Request) (s : State) (k : SourceId) :
    groupDeviated (served r s) k = groupDeviated s k := groupDeviated_congr (fun f => by rw [served_fn]) k

/-! Frames compose. -/

theorem keepsHeads_trans {s t u : State} (a : keepsHeads s t) (b : keepsHeads t u) : keepsHeads s u :=
  ⟨b.1.trans a.1, b.2.1.trans a.2.1, b.2.2.1.trans a.2.2.1, b.2.2.2.trans a.2.2.2⟩

theorem keepsPad_trans {s t u : State} (a : keepsPad s t) (b : keepsPad t u) : keepsPad s u :=
  ⟨b.1.trans a.1, b.2.1.trans a.2.1, b.2.2.trans a.2.2⟩

theorem keepsPorts_trans {s t u : State} (a : keepsPorts s t) (b : keepsPorts t u) : keepsPorts s u :=
  ⟨b.1.trans a.1, b.2.1.trans a.2.1, b.2.2.trans a.2.2⟩

theorem keepsBase_trans {s t u : State} (a : keepsBase s t) (b : keepsBase t u) : keepsBase s u :=
  ⟨b.1.trans a.1, b.2.1.trans a.2.1, b.2.2.trans a.2.2⟩

/-- The entry to TRANSPARENT mode writes slots, function map, condition unit and management unit alone. -/
theorem enterTransparent_field {α : Type} (f : State → α) (cu : ∀ (t : State) (u : ConditionUnit), f { t with cu := u } = f t)
    (rest : ∀ (t : State) (x : PerFn (Option Slot)) (m : FunctionMap) (g : Management),
      f { t with slots := x, fmap := m, mgmt := g } = f t) (s : State) : f (enterTransparent s) = f s := by
  rw [← cu (enterTransparent s) s.cu, enterTransparent_only]
  exact rest s _ _ _

theorem enterTransparent_keeps (s : State) :
    keepsHeads s (enterTransparent s) ∧ keepsPad s (enterTransparent s) ∧ keepsPorts s (enterTransparent s) ∧
      keepsBase s (enterTransparent s) ∧ (enterTransparent s).store = s.store := by
  refine ⟨⟨?_, ?_, ?_, ?_⟩, ⟨?_, ?_, ?_⟩, ⟨?_, ?_, ?_⟩, ⟨?_, ?_, ?_⟩, ?_⟩ <;>
    exact enterTransparent_field _ (fun _ _ => rfl) (fun _ _ _ _ => rfl) s

/-- The presence of SUPERVISION_LOSS ends with the restart of a tool request, or else at the entry (R171, R176). -/
theorem supervisionLoss_ended (r : Request) (s : State) :
    (enterTransparent (served r s)).source .supervisionLoss =
      if s.mgmt.supLoss = true then withoutPresence (s.source .supervisionLoss) else s.source .supervisionLoss := by
  rw [enterTransparent_source, not_groupDeviated_supervisionLoss]
  by_cases restarts : r.origin = toolOrigin ∧ s.active = true
  · have none : (served r s).mgmt.supLoss = false := by rw [served_mgmt, if_pos restarts]
    have source : (served r s).source .supervisionLoss =
        if s.mgmt.supLoss = true then withoutPresence (s.source .supervisionLoss) else s.source .supervisionLoss := by
      split
      · exact served_source_of_loss restarts.1 restarts.2 ‹_›
      · rw [State.source, served_cu_of_no_loss r (by simpa only [Bool.not_eq_true] using ‹¬s.mgmt.supLoss = true›)]
        rfl
    simp [none, source]
  · have same : served r s = beginRequest s := if_neg restarts
    rw [same]
    simp only [true_and, Bool.false_eq_true, or_false]
    rfl

/-- Settles O14, by the two entries and what they end. -/
theorem setModeChangesTheMode : Obligations.SetModeChangesTheMode := by
  intro r s adm
  have one : r.args = [1] → wholeWalk byte r.args = some 1 := fun args => by rw [args]; rfl
  have zero : r.args = [0] → wholeWalk byte r.args = some 0 := fun args => by rw [args]; rfl
  refine ⟨?invalid, ?sameActive, ?sameTransparent, ?notReady, ?active, ?state, ?transparent⟩
  case invalid =>
    intro b args notZero notOne
    refine request_refused 4 adm (by rw [args]; exact wholeWalk_byte b) ?_
    simp only [ownSetMode, modeOfCode_of_ne notZero notOne]
  case sameActive =>
    intro args active
    exact request_completes 4 adm (one args) (ownSetMode_same rfl ((served_mode r s).trans active))
      (served_resetTaken r s)
  case sameTransparent =>
    intro args transparent
    exact request_completes 4 adm (zero args) (ownSetMode_same rfl ((served_mode r s).trans transparent))
      (served_resetTaken r s)
  case notReady =>
    intro args transparent unwritten
    refine request_refused 4 adm (one args) ?_
    rw [ownSetMode_active ((served_mode r s).trans transparent), served_limits, unwritten]
    rfl
  case active =>
    intro l args transparent written
    have enters : ownSetMode r 1 (served r s) =
        (modeChanged .active r.origin (enterActive (beginRequest s)), doneAnswer) := by
      rw [served_of_transparent transparent, ownSetMode_active (s := beginRequest s) transparent,
        show (beginRequest s).mgmt.limits = some l from written]
      rfl
    refine (request_completes 4 adm (one args) enters ?_).trans ?_
    · rw [modeChanged_active, (queueEvent_moves _ _ _ _).resetTaken, enterActive_of_limits (s := beginRequest s) (l := l) written]
      split
      · exact (writeHoldValues_moves _).resetTaken
      · rfl
    · rw [modeChanged_active, enterActive_of_limits (s := beginRequest s) (l := l) written]
      rfl
  case state =>
    intro args active busy
    refine request_refused 4 adm (zero args) ?_
    rw [ownSetMode_transparent ((served_mode r s).trans active), served_anyHeadWorking, served_arb, if_pos]
    simpa using busy
  case transparent =>
    intro args active idle noHold
    have mgmt : (served r s).mgmt = { s.mgmt with
        resetTaken := false, supLoss := (served r s).mgmt.supLoss, supTimer := (served r s).mgmt.supTimer } := by
      rw [served_mgmt]; split <;> rfl
    obtain ⟨heads, pad, ports, base, store⟩ := enterTransparent_keeps (served r s)
    refine ⟨enterTransparent (served r s), ?_, ?_, fun f => ?_, fun f => ?_, ?_, ?_, ?_, fun loss => ?_, fun noLoss => ?_,
      fun k group => ⟨fun deviated => ?_, fun calm => ?_⟩, fun k other => ?_, ?_, ?_, ?_, ?_, ?_⟩
    · refine request_completes 4 adm (zero args) ?_ ?_
      · rw [ownSetMode_transparent ((served_mode r s).trans active), served_anyHeadWorking, served_arb, idle, noHold]
        rfl
      · rw [(queueEvent_moves _ _ _ _).resetTaken, enterTransparent_mgmt]
        exact served_resetTaken r s
    · rw [enterTransparent_mgmt, mgmt]
    · rw [enterTransparent_slots, PerFn.get_fill]
    · rw [State.fn, enterTransparent_fmap, PerFn.get_tabulate, served_fmap]
      rfl
    · rw [enterTransparent_fmap, served_fmap]
    · rw [(enterTransparent_level _).1, served_level]
    · rw [(enterTransparent_level _).2, served_stack]
    · rw [supervisionLoss_ended, if_pos loss]
    · rw [supervisionLoss_ended, if_neg (by rw [noLoss]; decide)]
    · have notLoss : k ≠ .supervisionLoss := by rintro rfl; simp at group
      rw [enterTransparent_source, served_groupDeviated, if_pos (.inr (groupDeviated_iff.mpr deviated)),
        served_source_of_ne r s notLoss]
    · have notLoss : k ≠ .supervisionLoss := by rintro rfl; simp at group
      rw [enterTransparent_source, served_groupDeviated, if_neg, served_source_of_ne r s notLoss]
      rintro (⟨same, _⟩ | deviated)
      · exact notLoss same
      · obtain ⟨f, feeds, dev⟩ := groupDeviated_iff.mp deviated
        exact calm f feeds dev
    · have notLoss : k ≠ .supervisionLoss := by rintro rfl; simp at other
      rw [enterTransparent_source, if_neg, served_source_of_ne r s notLoss]
      rintro (⟨same, _⟩ | deviated)
      · exact notLoss same
      · obtain ⟨f, feeds, _⟩ := groupDeviated_iff.mp deviated
        exact other (List.mem_cons_of_mem _ (mem_groups_of_deviationSource feeds))
    · exact keepsHeads_trans (served_keepsHeads r s) heads
    · exact keepsPad_trans (served_keepsPad r s) pad
    · exact keepsPorts_trans (served_keepsPorts r s) ports
    · exact keepsBase_trans (served_keepsBase r s) base
    · exact store.trans (served_store r s)

end Sys2Proof.Machine


/-! ## MAP_FUNCTION (R101, R102, R115) -/

namespace Sys2Proof.Machine

theorem fnCode_mem_Icc (f : Fn) : 1 ≤ fnCode f ∧ fnCode f ≤ 21 := by
  have all : ∀ f ∈ Fn.all, 1 ≤ fnCode f ∧ fnCode f ≤ 21 := by decide
  exact all f (Fn.mem_all f)

theorem keyOfCode_of_not_key {n : Nat} (noKey : ¬(1 ≤ n ∧ n ≤ 22)) : keyOfCode n = none := by
  have notSensor : n ≠ 22 := by omega
  rw [keyOfCode, if_neg notSensor, fnOfCode, Option.map_eq_none_iff, List.find?_eq_none]
  intro f _ same
  have := fnCode_mem_Icc f
  rw [beq_iff_eq] at same
  omega

/-- Check 1 of R101 on a node channel. -/
theorem channelOk_iff {s : State} {c : NodeChannel} :
    channelOk s c = true ↔ 1 ≤ c.node ∧ c.node ≤ 61 ∧ c.channel ≤ 7 ∧ c.node ≠ s.base.ownAddr := by
  simp [channelOk, within, and_assoc]

/-- The function was the last DEVIATED one of its group (R102, R115). -/
def LastDeviated (s : State) (f : Fn) (k : SourceId) : Prop :=
  deviationSource f = some k ∧ (s.fn f).dev = .deviated ∧
    ∀ g, g ≠ f → deviationSource g = some k → (s.fn g).dev ≠ .deviated

/-- A group loses its presence with the return of f when f was its last DEVIATED function (R115). -/
theorem groupDeviated_returned {s : State} {f : Fn} {k : SourceId} (feeds : deviationSource f = some k) :
    (groupDeviated s k && !groupDeviated (s.setFn f { s.fn f with dev := .inBand }) k) = true ↔ LastDeviated s f k := by
  have rest (g : Fn) : ((s.setFn f { s.fn f with dev := .inBand }).fn g).dev = .deviated ↔
      g ≠ f ∧ (s.fn g).dev = .deviated := by
    by_cases same : g = f
    · subst g; rw [State.fn_setFn_same]; simp
    · rw [State.fn_setFn_of_ne _ _ same]; simp [same]
  rw [Bool.and_eq_true, Bool.not_eq_true', ← Bool.not_eq_true, groupDeviated_iff, groupDeviated_iff]
  simp only [rest, not_exists, not_and]
  constructor
  · rintro ⟨⟨g, feedsG, deviated⟩, others⟩
    have same : g = f := by
      by_contra other
      exact others g feedsG other deviated
    subst g
    exact ⟨feeds, deviated, fun j other feedsJ => others j feedsJ other⟩
  · rintro ⟨_, deviated, others⟩
    exact ⟨⟨f, feeds, deviated⟩, fun g feedsG other => others g other feedsG⟩

theorem returnInBand_source_of_last {s : State} {f : Fn} {k : SourceId} (last : LastDeviated s f k) :
    (returnInBand f s).source k = withoutPresence (s.source k) := by
  have loses := (groupDeviated_returned last.1).mpr last
  unfold returnInBand
  dsimp only
  rw [last.1]
  dsimp only
  rw [if_pos loses, losePresence_source, if_pos rfl]
  rfl

theorem returnInBand_source_of_not_last {s : State} {f : Fn} {k : SourceId} (notLast : ¬LastDeviated s f k) :
    (returnInBand f s).source k = s.source k := by
  unfold returnInBand
  dsimp only
  split
  · rfl
  · rename_i j feeds
    split
    · rename_i loses
      have other : k ≠ j := by
        rintro rfl
        exact notLast ((groupDeviated_returned feeds).mp loses)
      rw [losePresence_source, if_neg other]
      rfl
    · rfl

theorem returnInBand_level (f : Fn) (s : State) :
    (returnInBand f s).cu.level = s.cu.level ∧ (returnInBand f s).cu.stack = s.cu.stack := by
  unfold returnInBand
  dsimp only
  split
  · exact ⟨rfl, rfl⟩
  · split
    · rw [losePresence_eq]; exact ⟨rfl, rfl⟩
    · exact ⟨rfl, rfl⟩

theorem PerFn.set_set {α : Type} (t : PerFn α) (f : Fn) (x y : α) : (t.set f x).set f y = t.set f y := by
  refine PerFn.ext_get fun g => ?_
  by_cases same : g = f
  · rw [same, PerFn.get_set_same, PerFn.get_set_same]
  · rw [PerFn.get_set_of_ne _ _ same, PerFn.get_set_of_ne _ _ same, PerFn.get_set_of_ne _ _ same]

/-- A remapping of a function writes its entry and, of the rest, the condition unit alone (R102). -/
theorem remapFn_only (f : Fn) (ch : Option NodeChannel) (s : State) :
    { remapFn f ch s with cu := s.cu } = s.setFn f { s.fn f with
      assign := ch, status := none, ready := false, lastTx := none, echo := 0, dev := .inBand } := by
  have only := returnInBand_only f s
  have fn : (returnInBand f s).fn f = { s.fn f with dev := .inBand } := by
    rw [State.fn_of_fmap (returnInBand_fmap f s), State.fn_setFn_same]
  have writes := congrArg (fun t : State => t.setFn f { s.fn f with
    assign := ch, status := none, ready := false, lastTx := none, echo := 0, dev := .inBand }) only
  refine Eq.trans ?_ (writes.trans ?_)
  · unfold remapFn
    dsimp only
    rw [fn]
    rfl
  · simp only [State.setFn, PerFn.set_set]

theorem remapFn_fmap (f : Fn) (ch : Option NodeChannel) (s : State) :
    (remapFn f ch s).fmap = (s.setFn f { s.fn f with
      assign := ch, status := none, ready := false, lastTx := none, echo := 0, dev := .inBand }).fmap := by
  rw [← remapFn_only]

theorem remapFn_cu (f : Fn) (ch : Option NodeChannel) (s : State) : (remapFn f ch s).cu = (returnInBand f s).cu := rfl

theorem remapFn_field {α : Type} (g : State → α) (cu : ∀ (t : State) (u : ConditionUnit), g { t with cu := u } = g t)
    (fmap : ∀ (t : State) (m : FunctionMap), g { t with fmap := m } = g t) (f : Fn) (ch : Option NodeChannel)
    (s : State) : g (remapFn f ch s) = g s := by
  rw [← cu (remapFn f ch s) s.cu, remapFn_only]
  exact fmap s _

theorem remapFn_keeps (f : Fn) (ch : Option NodeChannel) (s : State) :
    keepsHeads s (remapFn f ch s) ∧ keepsPad s (remapFn f ch s) ∧ keepsPorts s (remapFn f ch s) ∧
      keepsBase s (remapFn f ch s) ∧ (remapFn f ch s).store = s.store ∧ (remapFn f ch s).mgmt = s.mgmt ∧
      (remapFn f ch s).slots = s.slots := by
  refine ⟨⟨?_, ?_, ?_, ?_⟩, ⟨?_, ?_, ?_⟩, ⟨?_, ?_, ?_⟩, ⟨?_, ?_, ?_⟩, ?_, ?_, ?_⟩ <;>
    exact remapFn_field _ (fun _ _ => rfl) (fun _ _ => rfl) f ch s

/-! The checks (R101). -/

theorem served_channelOk (r : Request) (s : State) : channelOk (served r s) = channelOk s := by
  funext c
  rw [channelOk, served_base]
  rfl

theorem served_channelHeldByOther (r : Request) (s : State) (key : MapKey) :
    channelHeldByOther (served r s) key = channelHeldByOther s key :=
  channelHeldByOther_congr (fun f => by rw [served_fn]) (by rw [served_fmap]) key

theorem any_channelHeldByOther_fn {s : State} {f : Fn} {ch : Option NodeChannel}
    (free : ∀ c, ch = some c → s.fmap.sensor ≠ some c ∧ ∀ g, g ≠ f → (s.fn g).assign ≠ some c) :
    ch.any (channelHeldByOther s (.fn f)) = false := by
  cases ch with
  | none => rfl
  | some c => exact channelHeldByOther_fn.mpr (free c rfl)

theorem any_channelHeldByOther_sensor {s : State} {ch : Option NodeChannel}
    (free : ∀ c f, ch = some c → (s.fn f).assign ≠ some c) : ch.any (channelHeldByOther s .sensor) = false := by
  cases ch with
  | none => rfl
  | some c => exact channelHeldByOther_sensor.mpr fun g => free c g rfl

/-- The owning rule of MAP_FUNCTION past the key and the channel's own check, on the state it finds (R101). -/
theorem ownMapFunction_eq {r : Request} {s : State} {key : MapKey} {a : MapArgs} (names : keyOfCode a.key = some key)
    (good : ∀ c, a.channel = some c → 1 ≤ c.node ∧ c.node ≤ 61 ∧ c.channel ≤ 7 ∧ c.node ≠ s.base.ownAddr) :
    ownMapFunction r a (served r s) =
      if keyUnderPart (served r s) key then refuse (served r s) .state
      else if a.channel.any (channelHeldByOther s key) then refuse (served r s) .invalid
      else if keyAssignment (served r s) key = a.channel then (served r s, doneAnswer)
      else (remapKey key a.channel (served r s), doneAnswer) := by
  have ok : a.channel.all (channelOk s) = true := by
    cases ch : a.channel with
    | none => rfl
    | some c => exact channelOk_iff.mpr (good c ch)
  simp only [ownMapFunction, names, served_channelOk, ok, served_channelHeldByOther, Bool.not_true, Bool.false_eq_true,
    if_false]

/-- Settles O17, check by check. -/
theorem mapFunctionReassigns : Obligations.MapFunctionReassigns := by
  intro r s key ch adm walk
  refine ⟨?noKey, ?badChannel, fun good => ⟨?fn, ?sensor⟩⟩
  case noKey =>
    intro noKey
    refine request_refused 7 adm walk ?_
    simp only [ownMapFunction, keyOfCode_of_not_key noKey]
  case badChannel =>
    rintro c rfl bad
    refine request_refused 7 adm walk ?_
    have notOk : channelOk s c = false := by
      rw [← Bool.not_eq_true, channelOk_iff]
      exact bad
    unfold ownMapFunction
    split
    · rfl
    · simp [served_channelOk, notOk]
  case fn =>
    rintro f rfl
    have eq := ownMapFunction_eq (r := r) (a := ⟨fnCode f, ch⟩) (keyOfCode_fnCode f) good
    have under : keyUnderPart (served r s) (.fn f) = partAuthority s f := served_partAuthority r s f
    have assignment : keyAssignment (served r s) (.fn f) = (s.fn f).assign := by rw [keyAssignment, served_fn]
    rw [under, assignment] at eq
    refine ⟨fun part => ?_, fun tool => ⟨fun c holds held => ?_, fun free => ?_⟩⟩
    · exact request_refused 7 adm walk (by rw [eq, part]; rfl)
    · refine request_refused 7 adm walk ?_
      have heldByOther : channelHeldByOther s (.fn f) c = true := by
        rw [← Bool.not_eq_false, channelHeldByOther_fn]
        rintro ⟨notSensor, notOther⟩
        rcases held with sensor | ⟨g, other, assigned⟩
        · exact notSensor sensor
        · exact notOther g other assigned
      have any : ch.any (channelHeldByOther s (.fn f)) = true := by rw [holds]; exact heldByOther
      rw [eq, tool, any]
      rfl
    · have any := any_channelHeldByOther_fn free
      rw [tool, any] at eq
      refine ⟨fun same => ?_, fun new => ?_⟩
      · exact request_completes 7 adm walk (by rw [eq]; simp [same, doneAnswer]) (served_resetTaken r s)
      · obtain ⟨heads, pad, ports, base, store, mgmt, slots⟩ := remapFn_keeps f ch (served r s)
        have fn (g : Fn) : (remapFn f ch (served r s)).fn g = if g = f then { s.fn f with
            assign := ch, status := none, ready := false, lastTx := none, echo := 0, dev := .inBand } else s.fn g := by
          rw [State.fn_of_fmap (remapFn_fmap f ch (served r s))]
          by_cases same : g = f
          · rw [if_pos same, same, State.fn_setFn_same, served_fn]
          · rw [if_neg same, State.fn_setFn_of_ne _ _ same, served_fn]
        refine ⟨remapFn f ch (served r s), ?_, ?_, fun g other => ?_, ?_, ?_, fun k last => ?_, fun k notLast => ?_, mgmt,
          ?_, ?_, keepsHeads_trans (served_keepsHeads r s) heads, keepsPad_trans (served_keepsPad r s) pad,
          keepsPorts_trans (served_keepsPorts r s) ports, keepsBase_trans (served_keepsBase r s) base,
          store.trans (served_store r s)⟩
        · refine request_completes 7 adm walk (by rw [eq]; simp [new, remapKey, doneAnswer]) ?_
          rw [mgmt]
          exact served_resetTaken r s
        · rw [fn, if_pos rfl]
        · rw [fn, if_neg other]
        · rw [remapFn_fmap]
          show (served r s).fmap.sensor = _
          rw [served_fmap]
        · exact slots.trans (served_slots r s)
        · exact returnInBand_source_of_last (s := served r s) (by simpa only [LastDeviated, served_fn] using last)
        · exact returnInBand_source_of_not_last (s := served r s) (by simpa only [LastDeviated, served_fn] using notLast)
        · exact (returnInBand_level f _).1.trans (served_level r s)
        · exact (returnInBand_level f _).2.trans (served_stack r s)
  case sensor =>
    rintro rfl
    have eq := ownMapFunction_eq (r := r) (a := ⟨22, ch⟩) (key := .sensor) rfl good
    have assignment : keyAssignment (served r s) .sensor = s.fmap.sensor := by rw [keyAssignment, served_fmap]
    rw [assignment] at eq
    refine ⟨fun c f holds held => ?_, fun free => ⟨fun same => ?_, fun new => ?_⟩⟩
    · refine request_refused 7 adm walk ?_
      have heldByOther : channelHeldByOther s .sensor c = true := by
        rw [← Bool.not_eq_false, channelHeldByOther_sensor]
        exact fun free => free f held
      have any : ch.any (channelHeldByOther s .sensor) = true := by rw [holds]; exact heldByOther
      rw [eq, any]
      rfl
    · refine request_completes 7 adm walk ?_ (served_resetTaken r s)
      rw [eq, any_channelHeldByOther_sensor free]
      simp [keyUnderPart, same, doneAnswer]
    · refine ⟨remapSensor ch (served r s), request_completes 7 adm walk ?_ (served_resetTaken r s), ?_, fun h => ?_, ?_⟩
      · rw [eq, any_channelHeldByOther_sensor free]
        simp [keyUnderPart, new, remapKey, doneAnswer]
      · show { (served r s).fmap with sensor := ch } = _
        rw [served_fmap]
      · have open_ : (remapSensor ch (served r s)).sampler h = { (served r s).sampler h with openSweep := none } := by
          cases h <;> rfl
        rw [open_, served_sampler]
      · rw [← served_fmap r s, ← served_samplers r s]
        rfl

end Sys2Proof.Machine


/-! ## The choice of the two transmitters (R129 to R133, R177, R179) -/

namespace Sys2Proof.Machine

/-! What each port's choice writes. -/

/-- Port D's choice writes its transmitter, the downbound queue, the function map and the slots. -/
theorem chooseD_only (fuel : Nat) (s : State) :
    { chooseD fuel s with
      portD := s.portD, fwd := { (chooseD fuel s).fwd with down := s.fwd.down }, fmap := s.fmap, slots := s.slots } = s := by
  have S : SendDKept fun t => { t with
      portD := s.portD, fwd := { t.fwd with down := s.fwd.down }, fmap := s.fmap, slots := s.slots } = s := {}
  exact chooseD_kept S fuel (s := s) rfl

/-- Port U's choice writes its transmitter, the upbound queue, and the queues of the management unit that it drains. -/
theorem chooseU_only (s : State) :
    { chooseU s with
      portU := s.portU
      fwd := { (chooseU s).fwd with up := s.fwd.up }
      mgmt := { (chooseU s).mgmt with
        responses := s.mgmt.responses, heldBack := s.mgmt.heldBack, events := s.mgmt.events } } = s := by
  have S : SendUKept fun t => { t with
      portU := s.portU
      fwd := { t.fwd with up := s.fwd.up }
      mgmt := { t.mgmt with
        responses := s.mgmt.responses, heldBack := s.mgmt.heldBack, events := s.mgmt.events } } = s := {}
  exact chooseU_kept S (s := s) rfl

theorem chooseD_field {α : Type} (f : State → α)
    (unread : ∀ (t : State) (p : PortState) (x : Forwarding) (m : FunctionMap) (v : PerFn (Option Slot)), x.up = t.fwd.up →
      f { t with portD := p, fwd := x, fmap := m, slots := v } = f t) (fuel : Nat) (s : State) :
    f (chooseD fuel s) = f s :=
  (unread (chooseD fuel s) s.portD { (chooseD fuel s).fwd with down := s.fwd.down } s.fmap s.slots rfl).symm.trans
    (congrArg f (chooseD_only fuel s))

theorem chooseU_field {α : Type} (f : State → α)
    (unread : ∀ (t : State) (p : PortState) (x : Forwarding) (m : Management), x.down = t.fwd.down →
      f { t with portU := p, fwd := x, mgmt := m } = f t) (s : State) : f (chooseU s) = f s :=
  (unread (chooseU s) s.portU { (chooseU s).fwd with up := s.fwd.up } { (chooseU s).mgmt with
    responses := s.mgmt.responses, heldBack := s.mgmt.heldBack, events := s.mgmt.events } rfl).symm.trans
    (congrArg f (chooseU_only s))

theorem chooseU_down (s : State) : (chooseU s).fwd.down = s.fwd.down :=
  chooseU_field (fun t => t.fwd.down) (fun _ _ _ _ e => e) s

theorem chooseD_up (fuel : Nat) (s : State) : (chooseD fuel s).fwd.up = s.fwd.up :=
  chooseD_field (fun t => t.fwd.up) (fun _ _ _ _ _ e => e) fuel s

@[simp] theorem chooseD_mgmt (fuel : Nat) (s : State) : (chooseD fuel s).mgmt = s.mgmt :=
  chooseD_field _ (fun _ _ _ _ _ _ => rfl) fuel s
@[simp] theorem chooseD_portU (fuel : Nat) (s : State) : (chooseD fuel s).portU = s.portU :=
  chooseD_field _ (fun _ _ _ _ _ _ => rfl) fuel s
@[simp] theorem chooseD_base (fuel : Nat) (s : State) : (chooseD fuel s).base = s.base :=
  chooseD_field _ (fun _ _ _ _ _ _ => rfl) fuel s
@[simp] theorem chooseU_portD (s : State) : (chooseU s).portD = s.portD := chooseU_field _ (fun _ _ _ _ _ => rfl) s
@[simp] theorem chooseU_slots (s : State) : (chooseU s).slots = s.slots := chooseU_field _ (fun _ _ _ _ _ => rfl) s
@[simp] theorem chooseU_fmap (s : State) : (chooseU s).fmap = s.fmap := chooseU_field _ (fun _ _ _ _ _ => rfl) s

/-! Which class a transmitter serves (R129). -/

theorem chooseClass_own {forward own : Bool} {last : TxClass} (waits : own = true)
    (turn : forward = false ∨ last = .forward) : chooseClass forward own last = some .own := by
  subst waits
  rcases turn with rfl | rfl
  · rfl
  · cases forward <;> rfl

theorem chooseClass_forward {forward own : Bool} {last : TxClass} (waits : forward = true)
    (turn : own = false ∨ last = .own) : chooseClass forward own last = some .forward := by
  subst waits
  rcases turn with rfl | rfl
  · rfl
  · cases own <;> rfl

theorem chooseClass_none {last : TxClass} : chooseClass false false last = none := rfl

theorem isEmpty_false_of_ne {α : Type} {l : List α} (some : l ≠ []) : (!l.isEmpty) = true := by
  cases l with
  | nil => exact absurd rfl some
  | cons => rfl

/-! Port U (R131, R132). -/

theorem chooseU_of_busy {s : State} (busy : s.portU.tx ≠ .free) : chooseU s = s := if_neg busy

theorem chooseU_own {s : State} (free : s.portU.tx = .free) (waits : s.mgmt.responses ≠ [] ∨ s.mgmt.events ≠ [])
    (turn : s.fwd.up = [] ∨ s.portU.last = .forward) : chooseU s = sendOwnU s := by
  have own : (!s.mgmt.responses.isEmpty || !s.mgmt.events.isEmpty) = true := by
    rcases waits with some | some
    · rw [isEmpty_false_of_ne some]; rfl
    · rw [isEmpty_false_of_ne some, Bool.or_true]
  have chosen : chooseClass (!s.fwd.up.isEmpty) (!s.mgmt.responses.isEmpty || !s.mgmt.events.isEmpty) s.portU.last =
      some .own := chooseClass_own own (turn.imp_left fun none => by rw [none]; rfl)
  unfold chooseU
  rw [if_pos free, chosen]

theorem chooseU_forward {s : State} {frame : List Byte} {rest : List (List Byte)} (free : s.portU.tx = .free)
    (waits : s.fwd.up = frame :: rest)
    (turn : (s.mgmt.responses = [] ∧ s.mgmt.events = []) ∨ s.portU.last = .own) :
    chooseU s = { s with fwd := { s.fwd with up := rest }, portU := startFrame .forward frame s.portU } := by
  have chosen : chooseClass (!s.fwd.up.isEmpty) (!s.mgmt.responses.isEmpty || !s.mgmt.events.isEmpty) s.portU.last =
      some .forward :=
    chooseClass_forward (by rw [waits]; rfl) (turn.imp_left fun none => by rw [none.1, none.2]; rfl)
  unfold chooseU
  rw [if_pos free, chosen, waits]

/-- A free Port U that chooses nothing has nothing to send. -/
theorem chooseU_idle {s : State} (free : s.portU.tx = .free) (up : s.fwd.up = []) (responses : s.mgmt.responses = [])
    (events : s.mgmt.events = []) : chooseU s = s := by
  unfold chooseU
  rw [if_pos free, up, responses, events]
  rfl

theorem sendOwnU_busy (s : State) : (sendOwnU s).portU.tx ≠ .free := by
  unfold sendOwnU
  split <;> exact nofun

/-- No free Port U keeps what waits for it (R129). -/
theorem chooseU_exhausts {s : State} (free : (chooseU s).portU.tx = .free) :
    (chooseU s).fwd.up = [] ∧ (chooseU s).mgmt.responses = [] ∧ (chooseU s).mgmt.events = [] := by
  by_cases busy : s.portU.tx = .free
  · by_cases own : (s.mgmt.responses ≠ [] ∨ s.mgmt.events ≠ []) ∧ (s.fwd.up = [] ∨ s.portU.last = .forward)
    · rw [chooseU_own busy own.1 own.2] at free
      exact absurd free (sendOwnU_busy s)
    · cases up : s.fwd.up with
      | cons frame rest =>
        have turn : (s.mgmt.responses = [] ∧ s.mgmt.events = []) ∨ s.portU.last = .own := by
          cases last : s.portU.last with
          | own => exact .inr rfl
          | forward => exact .inl (by simpa [last] using own)
        rw [chooseU_forward busy up turn] at free
        cases free
      | nil =>
        have none : s.mgmt.responses = [] ∧ s.mgmt.events = [] := by simpa [up] using own
        rw [chooseU_idle busy up none.1 none.2]
        exact ⟨up, none⟩
  · rw [chooseU_of_busy busy] at free
    exact absurd free busy

/-! Port D (R109, R130). -/

theorem chooseD_of_busy (fuel : Nat) {s : State} (busy : s.portD.tx ≠ .free) : chooseD fuel s = s := by
  cases fuel with
  | zero => rfl
  | succ fuel => exact if_neg busy

theorem chooseD_own (fuel : Nat) {s : State} (free : s.portD.tx = .free) (waits : eligibleSlots s ≠ [])
    (turn : s.fwd.down = [] ∨ s.portD.last = .forward) : chooseD (fuel + 1) s = sendOwnD s := by
  have chosen : chooseClass (!s.fwd.down.isEmpty) (!(eligibleSlots s).isEmpty) s.portD.last = some .own :=
    chooseClass_own (isEmpty_false_of_ne waits) (turn.imp_left fun none => by rw [none]; rfl)
  unfold chooseD
  rw [if_pos free, chosen]

section Forward

variable (fuel : Nat) {s t : State} {frame : List Byte} {rest : List (List Byte)} (free : s.portD.tx = .free)
  (waits : s.fwd.down = frame :: rest) (turn : eligibleSlots s = [] ∨ s.portD.last = .own)

include free waits turn

/-- The oldest downbound frame is sent as judged. -/
theorem chooseD_sends {sent : List Byte}
    (judged : judgeFrame frame { s with fwd := { s.fwd with down := rest } } = (some sent, t)) :
    chooseD (fuel + 1) s = { t with portD := startFrame .forward sent t.portD } := by
  have chosen : chooseClass (!s.fwd.down.isEmpty) (!(eligibleSlots s).isEmpty) s.portD.last = some .forward :=
    chooseClass_forward (by rw [waits]; rfl) (turn.imp_left fun none => by rw [none]; rfl)
  rw [chooseD, if_pos free, chosen, waits]
  dsimp only
  rw [judged]

/-- A judged frame that is not sent leaves the choice to what waits behind it. -/
theorem chooseD_skips (judged : judgeFrame frame { s with fwd := { s.fwd with down := rest } } = (none, t)) :
    chooseD (fuel + 1) s = chooseD fuel t := by
  have chosen : chooseClass (!s.fwd.down.isEmpty) (!(eligibleSlots s).isEmpty) s.portD.last = some .forward :=
    chooseClass_forward (by rw [waits]; rfl) (turn.imp_left fun none => by rw [none]; rfl)
  rw [chooseD, if_pos free, chosen, waits]
  dsimp only
  rw [judged]

end Forward

theorem chooseD_idle (fuel : Nat) {s : State} (down : s.fwd.down = []) (slots : eligibleSlots s = []) :
    chooseD fuel s = s := by
  cases fuel with
  | zero => rfl
  | succ fuel =>
    unfold chooseD
    rw [down, slots]
    split <;> rfl

/-- The judging of a frame writes the function map alone (R105 to R107). -/
theorem judgeFrame_only (frame : List Byte) (s : State) : { (judgeFrame frame s).2 with fmap := s.fmap } = s := by
  have marks (fs : List Fn) (t : State) (e : { t with fmap := s.fmap } = s) :
      { markClamped fs t with fmap := s.fmap } = s := by
    unfold markClamped
    induction fs generalizing t with
    | nil => exact e
    | cons f fs ih => exact ih _ e
  have records (node : Nat) (rs : List SetpointRecord) (t : State) (e : { t with fmap := s.fmap } = s) :
      { recordForwarded node rs t with fmap := s.fmap } = s := by
    unfold recordForwarded
    induction rs generalizing t with
    | nil => exact e
    | cons r rs ih =>
      refine ih _ ?_
      dsimp only
      split <;> exact e
  unfold judgeFrame
  dsimp only
  split
  · rfl
  · split
    · split <;> rfl
    · split
      · exact marks _ _ rfl
      · split <;> exact records _ _ _ (marks _ _ rfl)

theorem judgeFrame_field {α : Type} (f : State → α) (unread : ∀ (t : State) (m : FunctionMap), f { t with fmap := m } = f t)
    (frame : List Byte) (s : State) : f (judgeFrame frame s).2 = f s := by
  rw [← unread _ s.fmap, judgeFrame_only]

/-! The oldest slot (R109, step 1). -/

/-- The choice among candidates is one that is the oldest, and of equals the first. -/
theorem foldl_olderSlot (s : State) (best : Fn) (fs : List Fn) :
    ∃ f, fs.foldl (olderSlot s) (some best) = some f ∧ (f = best ∨ f ∈ fs) ∧
      slotAge s best ≤ slotAge s f ∧ (∀ g ∈ fs, slotAge s g ≤ slotAge s f) ∧
      (f ≠ best → slotAge s best < slotAge s f) := by
  induction fs generalizing best with
  | nil => exact ⟨best, rfl, .inl rfl, le_rfl, nofun, fun other => absurd rfl other⟩
  | cons g fs ih =>
    rw [List.foldl_cons]
    by_cases older : slotAge s best < slotAge s g
    · have next : olderSlot s (some best) g = some g := if_pos older
      obtain ⟨f, chosen, among, least, most, _⟩ := ih g
      rw [next]
      refine ⟨f, chosen, .inr ?_, by omega, ?_, fun _ => by omega⟩
      · rcases among with rfl | among
        · exact List.mem_cons_self
        · exact List.mem_cons_of_mem _ among
      · intro k mem
        rcases List.mem_cons.mp mem with rfl | mem
        · exact least
        · exact most k mem
    · have next : olderSlot s (some best) g = some best := if_neg older
      obtain ⟨f, chosen, among, least, most, strict⟩ := ih best
      rw [next]
      refine ⟨f, chosen, among.imp_right (List.mem_cons_of_mem _), least, ?_, strict⟩
      intro k mem
      rcases List.mem_cons.mp mem with rfl | mem
      · omega
      · exact most k mem

theorem oldestSlot_of_eligible {s : State} (waits : eligibleSlots s ≠ []) :
    ∃ f, oldestSlot s = some f ∧ f ∈ eligibleSlots s := by
  unfold oldestSlot
  cases slots : eligibleSlots s with
  | nil => exact absurd slots waits
  | cons g gs =>
    obtain ⟨f, chosen, among, _⟩ := foldl_olderSlot s g gs
    exact ⟨f, chosen, List.mem_cons.mpr among⟩

theorem mem_eligibleSlots {s : State} {f : Fn} : f ∈ eligibleSlots s ↔ slotEligible s f = true := by
  simp [eligibleSlots, Fn.mem_all]

theorem slotEligible_iff {s : State} {f : Fn} :
    slotEligible s f = true ↔ (s.slots.get f).isSome = true ∧ (s.fn f).assign.isSome = true ∧ (s.fn f).ready = true := by
  simp [slotEligible, and_assoc]

theorem setpointFrame_of_oldest {s : State} {f : Fn} {ch : NodeChannel} (oldest : oldestSlot s = some f)
    (assigned : (s.fn f).assign = some ch) :
    setpointFrame s =
      some (ownFrame ch.node s.base.ownAddr kindSetpoint
          (setpointPayload ((gatheredSlots s ch.node).map fun g => slotRecord s g.1 g.2)),
        (gatheredSlots s ch.node).foldl (fun s g => departSlot s g.2) s) := by
  rw [setpointFrame, oldest, Option.bind_some, assigned]

/-- A frame is there to send while a slot is eligible (R109). -/
theorem setpointFrame_of_eligible {s : State} (waits : eligibleSlots s ≠ []) :
    ∃ frame t, setpointFrame s = some (frame, t) := by
  obtain ⟨f, oldest, among⟩ := oldestSlot_of_eligible waits
  obtain ⟨_, mapped, _⟩ := slotEligible_iff.mp (mem_eligibleSlots.mp among)
  obtain ⟨ch, assigned⟩ := Option.isSome_iff_exists.mp mapped
  exact ⟨_, _, setpointFrame_of_oldest oldest assigned⟩

theorem sendOwnD_of_frame {s t : State} {frame : List Byte} (sends : setpointFrame s = some (frame, t)) :
    sendOwnD s = { t with portD := startFrame .own frame t.portD } := by
  rw [sendOwnD, sends]

/-- No free Port D keeps what waits for it (R129, R130). -/
theorem chooseD_exhausts (fuel : Nat) {s : State} (enough : s.fwd.down.length < fuel)
    (free : (chooseD fuel s).portD.tx = .free) :
    (chooseD fuel s).fwd.down = [] ∧ eligibleSlots (chooseD fuel s) = [] := by
  induction fuel generalizing s with
  | zero => omega
  | succ fuel ih =>
    by_cases busy : s.portD.tx = .free
    · by_cases own : eligibleSlots s ≠ [] ∧ (s.fwd.down = [] ∨ s.portD.last = .forward)
      · obtain ⟨frame, t, sends⟩ := setpointFrame_of_eligible own.1
        rw [chooseD_own fuel busy own.1 own.2, sendOwnD_of_frame sends] at free
        cases free
      · cases down : s.fwd.down with
        | nil =>
          have none : eligibleSlots s = [] := by simpa [down] using own
          rw [chooseD_idle _ down none]
          exact ⟨down, none⟩
        | cons frame rest =>
          have turn : eligibleSlots s = [] ∨ s.portD.last = .own := by
            cases last : s.portD.last with
            | own => exact .inr rfl
            | forward => exact .inl (by simpa [last] using own)
          have left : (judgeFrame frame { s with fwd := { s.fwd with down := rest } }).2.fwd.down = rest :=
            judgeFrame_field (fun t => t.fwd.down) (fun _ _ => rfl) frame _
          rcases judged : judgeFrame frame { s with fwd := { s.fwd with down := rest } } with ⟨_ | sent, t⟩
          · rw [judged] at left
            rw [chooseD_skips fuel busy down turn judged] at free ⊢
            rw [down] at enough
            exact ih (by rw [left]; exact Nat.lt_of_succ_lt_succ enough) free
          · rw [chooseD_sends fuel busy down turn judged] at free
            cases free
    · rw [chooseD_of_busy _ busy] at free
      exact absurd free busy

/-! The whole choice. -/

theorem eligibleSlots_congr {s t : State} (slots : t.slots = s.slots) (fmap : t.fmap = s.fmap) :
    eligibleSlots t = eligibleSlots s := by
  unfold eligibleSlots slotEligible State.fn
  rw [slots, fmap]

/-- Settles O27: a choice leaves a transmitter free only when nothing waits for it. -/
theorem freeTransmittersHaveNothingToSend : Obligations.FreeTransmittersHaveNothingToSend := by
  intro s
  refine ⟨chooseU_exhausts, fun free => ?_⟩
  unfold settle at free ⊢
  rw [chooseU_portD] at free
  rw [chooseU_down, eligibleSlots_congr (chooseU_slots _) (chooseU_fmap _)]
  exact chooseD_exhausts _ (Nat.lt_succ_self _) free

/-- What the transmitters' choice leaves of a state (R105 to R107, R109, R110, R129 to R133). -/
def TrafficMoved (s t : State) : Prop :=
  { t with
    portU := s.portU, portD := s.portD, fwd := s.fwd, fmap := s.fmap, slots := s.slots
    mgmt := { t.mgmt with
      responses := s.mgmt.responses, heldBack := s.mgmt.heldBack, events := s.mgmt.events } } = s ∧
  t.fmap.sensor = s.fmap.sensor ∧ (∀ f, ∃ tx e c, t.fn f = { s.fn f with lastTx := tx, echo := e, clamped := c }) ∧
  (t.portU.link = s.portU.link ∧ t.portU.streak = s.portU.streak) ∧
  (t.portD.link = s.portD.link ∧ t.portD.streak = s.portD.streak)

theorem trafficMoved_kept (s : State) : SendKept (TrafficMoved s) where
  told {t} f tx e c _ p := by
    refine ⟨p.1, p.2.1, fun g => ?_, p.2.2.2⟩
    by_cases same : g = f
    · subst g
      obtain ⟨tx', e', c', old⟩ := p.2.2.1 f
      exact ⟨tx, e, c, by rw [State.fn_setFn_same, old]⟩
    · rw [State.fn_setFn_of_ne _ _ same]
      exact p.2.2.1 g

theorem settle_trafficMoved (s : State) : TrafficMoved s (settle s) :=
  settle_kept (trafficMoved_kept s) ⟨rfl, rfl, fun _ => ⟨_, _, _, rfl⟩, ⟨rfl, rfl⟩, ⟨rfl, rfl⟩⟩

theorem settle_of_busy {s : State} (busyU : s.portU.tx ≠ .free) (busyD : s.portD.tx ≠ .free) : settle s = s := by
  rw [settle, chooseD_of_busy _ busyD, chooseU_of_busy busyU]

/-- Settles O26, by the writes of the choice. -/
theorem settleMovesOnlyTraffic : Obligations.SettleMovesOnlyTraffic := by
  intro s
  obtain ⟨only, sensor, fns, portU, portD⟩ := settle_trafficMoved s
  have field {α : Type} (f : State → α) (unread : ∀ (t : State) (u d : PortState) (x : Forwarding) (m : FunctionMap)
      (v : PerFn (Option Slot)) (g : Management),
      f { t with portU := u, portD := d, fwd := x, fmap := m, slots := v, mgmt := g } = f t) : f (settle s) = f s := by
    have e := congrArg f only
    rw [unread (settle s)] at e
    exact e
  have mgmt := congrArg State.mgmt only
  refine ⟨settle_of_busy, ⟨?_, ?_, ?_, ?_⟩, ⟨?_, ?_, ?_⟩, ⟨?_, ?_, ?_⟩, ?_, ?_, sensor, fns, portU.1, portU.2, portD.1,
    portD.2, mgmt⟩ <;> exact field _ fun _ _ _ _ _ _ _ => rfl

/-! Turns of Port U (R129, R131, R132, R177, R179). -/

theorem queueEvent_of_lt {kind : EventKind} {head : Option Head} {data : List (BitVec 32)} {s : State}
    (room : s.mgmt.events.length < 32) :
    queueEvent kind head data s =
      { s with mgmt := { s.mgmt with
          events := s.mgmt.events ++ [{ kind, head, time := s.base.time, data, droppedBefore := s.mgmt.dropped }]
          dropped := false } } := if_pos room

theorem queueEvent_of_full {kind : EventKind} {head : Option Head} {data : List (BitVec 32)} {s : State}
    (full : 32 ≤ s.mgmt.events.length) :
    queueEvent kind head data s = { s with mgmt := { s.mgmt with dropped := true } } := if_neg full.not_gt

theorem any_isResetRecord {es : List EventRecord} :
    es.any isResetRecord = true ↔ ∃ e ∈ es, e.kind = .stationReset := by simp [isResetRecord]

theorem sendOwnU_response {s : State} {r : Response} {rest : List Response} (waits : s.mgmt.responses = r :: rest) :
    sendOwnU s = { s with
      mgmt := { s.mgmt with responses := rest }
      portU := startFrame .own (ownFrame r.dest s.base.ownAddr kindResponse (responsePayload r)) s.portU } := by
  rw [sendOwnU, waits]

theorem sendOwnU_events {s : State} (silent : s.mgmt.responses = []) :
    sendOwnU s = { s with
      mgmt := releaseHeldBack (s.mgmt.events.take 4) { s.mgmt with events := s.mgmt.events.drop 4 }
      portU := startFrame .own (ownFrame 63 s.base.ownAddr kindEvent (eventPayload (s.mgmt.events.take 4))) s.portU } := by
  rw [sendOwnU, silent]
  rfl

theorem releaseHeldBack_of_reset {sent : List EventRecord} {m : Management} {r : Response} (held : m.heldBack = some r)
    (reset : ∃ e ∈ sent, e.kind = .stationReset) :
    releaseHeldBack sent m = { m with responses := m.responses ++ [r], heldBack := none } := by
  unfold releaseHeldBack
  rw [held]
  exact if_pos (any_isResetRecord.mpr reset)

theorem releaseHeldBack_of_not_reset {sent : List EventRecord} {m : Management}
    (plain : m.heldBack = none ∨ ∀ e ∈ sent, e.kind ≠ .stationReset) : releaseHeldBack sent m = m := by
  unfold releaseHeldBack
  split
  · rfl
  · rename_i r held
    rcases plain with none | plain
    · rw [none] at held; cases held
    · refine if_neg fun reset => ?_
      obtain ⟨e, among, kind⟩ := any_isResetRecord.mp reset
      exact plain e among kind

/-- Settles O28: Port D's choice leaves what Port U's reads. -/
theorem portUTakesTurns : Obligations.PortUTakesTurns := by
  refine ⟨fun kind head data s => ⟨queueEvent_of_lt, queueEvent_of_full⟩, fun s free => ?_⟩
  have settles : ∀ {t : State}, chooseU (chooseD (s.fwd.down.length + 1) s) = t → settle s = t := fun e => e
  have up := chooseD_up (s.fwd.down.length + 1) s
  have mgmt := chooseD_mgmt (s.fwd.down.length + 1) s
  have port := chooseD_portU (s.fwd.down.length + 1) s
  have base := chooseD_base (s.fwd.down.length + 1) s
  rw [← port] at free
  refine ⟨fun r rest waits turn => ?_, fun silent events turn => ?_, fun frame rest waits turn => ?_⟩
  · rw [← mgmt] at waits
    rw [← up, ← port] at turn
    have sends := settles ((chooseU_own free (.inl (by rw [waits]; exact nofun)) turn).trans (sendOwnU_response waits))
    rw [sends]
    dsimp only [startFrame]
    rw [base, mgmt, up]
    exact ⟨rfl, rfl, rfl, rfl⟩
  · rw [← mgmt] at silent events
    rw [← up, ← port] at turn
    have sends := settles ((chooseU_own free (.inr events) turn).trans (sendOwnU_events silent))
    rw [sends]
    dsimp only [startFrame]
    rw [mgmt] at silent
    rw [base, mgmt, up]
    refine ⟨rfl, rfl, rfl, fun r held reset => ?_, fun plain => ?_⟩
    · rw [releaseHeldBack_of_reset (m := { s.mgmt with events := s.mgmt.events.drop 4 }) held reset, silent]
      rfl
    · exact releaseHeldBack_of_not_reset (m := { s.mgmt with events := s.mgmt.events.drop 4 }) plain
  · rw [← up] at waits
    rw [← mgmt, ← port] at turn
    have sends := settles (chooseU_forward free waits turn)
    rw [sends]
    exact ⟨rfl, rfl, rfl, mgmt⟩

end Sys2Proof.Machine


/-! ## Tool setpoints judged as they leave (R104 to R107) -/

namespace Sys2Proof.Machine

/-! The function at a node channel (R100, R105). -/

theorem fnAt_eq_none {s : State} {node channel : Nat}
    (nobody : 7 < channel ∨ ∀ f, (s.fn f).assign ≠ some { node, channel }) : fnAt s node channel = none := by
  unfold fnAt
  split
  · rcases nobody with high | unheld
    · omega
    · exact List.find?_eq_none.mpr fun f _ => by simpa using unheld f
  · rfl

theorem fnAt_eq_some {s : State} {node channel : Nat} {f : Fn} (holds : fnAt s node channel = some f) :
    channel ≤ 7 ∧ (s.fn f).assign = some { node, channel } := by
  unfold fnAt at holds
  split at holds
  · exact ⟨‹_›, by simpa using List.find?_some holds⟩
  · cases holds

/-- With node channels apart, the function that holds one is the one found there. -/
theorem fnAt_of_assign {s : State} (distinct : ChannelsDistinct s) {node channel : Nat} {f : Fn} (low : channel ≤ 7)
    (holds : (s.fn f).assign = some { node, channel }) : fnAt s node channel = some f := by
  cases found : fnAt s node channel with
  | none =>
    unfold fnAt at found
    rw [if_pos low, List.find?_eq_none] at found
    exact absurd holds (by simpa using found f (Fn.mem_all f))
  | some g => rw [distinct.functions g f _ (fnAt_eq_some found).2 holds]

theorem fnAt_congr {s t : State} (assign : ∀ f, (t.fn f).assign = (s.fn f).assign) (node channel : Nat) :
    fnAt t node channel = fnAt s node channel := by
  simp only [fnAt, assign]

theorem TrafficMoved.assign {s t : State} (moved : TrafficMoved s t) (f : Fn) : (t.fn f).assign = (s.fn f).assign := by
  obtain ⟨tx, e, c, fn⟩ := moved.2.2.1 f
  rw [fn]

theorem TrafficMoved.offset {s t : State} (moved : TrafficMoved s t) (f : Fn) : t.offset f = s.offset f := by
  have store := congrArg (fun u : State => u.store.offsets.get f) moved.1
  exact store

theorem nodeMapped_iff {s : State} {node : Nat} :
    nodeMapped s node = true ↔
      (∃ f c, (s.fn f).assign = some c ∧ c.node = node) ∨ ∃ c, s.fmap.sensor = some c ∧ c.node = node := by
  simp [nodeMapped, Fn.mem_all]

/-! Judging a record (R105, R106). -/

theorem judgeRecord_of_nobody {s : State} {node : Nat} {r : SetpointRecord}
    (nobody : fnAt s node r.channel.toNat = none) : judgeRecord s node r = (some r, none) := by
  simp only [judgeRecord, nobody]

theorem judgeRecord_of_transparent {s : State} {node : Nat} {r : SetpointRecord}
    (transparent : s.mgmt.mode = .transparent) : judgeRecord s node r = (some r, none) := by
  unfold judgeRecord
  rw [active_eq_false transparent]
  split <;> rfl

theorem clampInt_eq {lo hi x : Int} (le : lo ≤ hi) : clampInt lo hi x = max lo (min hi x) := by
  unfold clampInt
  split
  · omega
  · split <;> omega

theorem clampInt_word_toNat (x : Int) : ((clampInt 0 65535 x).toNat : Int) = max 0 (min 65535 x) := by
  rw [clampInt_eq (by decide)]
  omega

theorem clampedNode_eq {s : State} {f : Fn} {node : Nat} (ordered : (limitBounds s.lim f).lo ≤ (limitBounds s.lim f).hi) :
    (clampedNode s f node : Int) = max 0 (min 65535
      (max ((limitBounds s.lim f).lo : Int) (min ((limitBounds s.lim f).hi : Int) ((node : Int) - s.offset f)) +
        s.offset f)) := by
  unfold clampedNode nodeValue functionValue
  dsimp only
  rw [clampInt_word_toNat, clampInt_eq (by omega)]

theorem judgeRecord_of_tool {s : State} {node : Nat} {r : SetpointRecord} {f : Fn} (active : s.mgmt.mode = .active)
    (holds : fnAt s node r.channel.toNat = some f) (tool : partAuthority s f = false) :
    judgeRecord s node r = (some { r with value := clampedNode s f r.value },
      if clampedNode s f r.value = r.value then none else some f) := by
  simp only [judgeRecord, holds, active_eq_true active, tool, if_true, Bool.false_eq_true, if_false]
  split
  · rename_i same
    rw [same]
  · rfl

theorem judgeRecord_of_part {s : State} {node : Nat} {r : SetpointRecord} {f : Fn} (active : s.mgmt.mode = .active)
    (holds : fnAt s node r.channel.toNat = some f) (part : partAuthority s f = true) :
    judgeRecord s node r = (none, none) := by
  simp only [judgeRecord, holds, active_eq_true active, part, if_true]

/-! What a judged frame leaves in the function map (R106, R107). -/

theorem markClamped_fn (fs : List Fn) (s : State) (g : Fn) :
    (markClamped fs s).fn g = if g ∈ fs then { s.fn g with clamped := true } else s.fn g := by
  unfold markClamped
  induction fs generalizing s with
  | nil => simp
  | cons f fs ih =>
    rw [List.foldl_cons, ih]
    by_cases same : g = f
    · subst g
      rw [State.fn_setFn_same]
      simp
    · rw [State.fn_setFn_of_ne _ _ same]
      simp [same]

/-- One forwarded record is written to the function it names (R107). -/
def recordOne (node : Nat) (s : State) (r : SetpointRecord) : State :=
  match fnAt s node r.channel.toNat with
  | none => s
  | some f =>
    s.setFn f { s.fn f with lastTx := some { node := r.value, value := functionValue s f r.value }, echo := 0 }

theorem recordForwarded_append (node : Nat) (pre : List SetpointRecord) (x : SetpointRecord)
    (post : List SetpointRecord) (s : State) :
    recordForwarded node (pre ++ x :: post) s =
      recordForwarded node post (recordOne node (recordForwarded node pre s) x) := by
  unfold recordForwarded
  rw [List.foldl_append, List.foldl_cons]
  rfl

theorem recordOne_trafficMoved {s t : State} (node : Nat) (x : SetpointRecord) (moved : TrafficMoved s t) :
    TrafficMoved s (recordOne node t x) := by
  unfold recordOne
  split
  · exact moved
  · exact (trafficMoved_kept s).told _ _ _ _ (.inl rfl) moved

theorem recordForwarded_trafficMoved {s t : State} (node : Nat) (rs : List SetpointRecord) (moved : TrafficMoved s t) :
    TrafficMoved s (recordForwarded node rs t) := recordForwarded_kept (trafficMoved_kept s).toSendDKept node rs moved

theorem TrafficMoved.refl (s : State) : TrafficMoved s s := ⟨rfl, rfl, fun _ => ⟨_, _, _, rfl⟩, ⟨rfl, rfl⟩, ⟨rfl, rfl⟩⟩

theorem recordOne_fn_of_other {node : Nat} {s : State} {x : SetpointRecord} {f : Fn}
    (other : fnAt s node x.channel.toNat ≠ some f) : (recordOne node s x).fn f = s.fn f := by
  unfold recordOne
  split
  · rfl
  · rename_i g names
    refine State.fn_setFn_of_ne _ _ fun same => other ?_
    rw [same]
    exact names

/-- Records that name other functions leave a function's entry. -/
theorem recordForwarded_fn_of_others {node : Nat} {rs : List SetpointRecord} {s : State} {f : Fn}
    (others : ∀ y ∈ rs, fnAt s node y.channel.toNat ≠ some f) : (recordForwarded node rs s).fn f = s.fn f := by
  induction rs generalizing s with
  | nil => rfl
  | cons x rs ih =>
    have moved := recordOne_trafficMoved node x (TrafficMoved.refl s)
    have rest := ih (s := recordOne node s x) fun y mem => by
      rw [fnAt_congr moved.assign]
      exact others y (List.mem_cons_of_mem _ mem)
    exact rest.trans (recordOne_fn_of_other (others x List.mem_cons_self))

/-- The last record that names a function is what its last transmitted values become. -/
theorem recordForwarded_fn_of_last {node : Nat} {pre post : List SetpointRecord} {x : SetpointRecord} {s : State} {f : Fn}
    (names : fnAt s node x.channel.toNat = some f) (last : ∀ y ∈ post, fnAt s node y.channel.toNat ≠ some f) :
    ((recordForwarded node (pre ++ x :: post) s).fn f).lastTx =
        some { node := x.value, value := (x.value : Int) - s.offset f } ∧
      ((recordForwarded node (pre ++ x :: post) s).fn f).echo = 0 := by
  have before := recordForwarded_trafficMoved node pre (TrafficMoved.refl s)
  have after := recordOne_trafficMoved node x before
  have written : recordOne node (recordForwarded node pre s) x = (recordForwarded node pre s).setFn f
      { (recordForwarded node pre s).fn f with
        lastTx := some { node := x.value, value := (x.value : Int) - s.offset f }, echo := 0 } := by
    unfold recordOne
    rw [fnAt_congr before.assign, names, ← before.offset]
    rfl
  have final := recordForwarded_fn_of_others (node := node) (rs := post) (f := f)
    (s := recordOne node (recordForwarded node pre s) x) fun y mem => by
      rw [fnAt_congr after.assign]
      exact last y mem
  rw [recordForwarded_append, final, written, State.fn_setFn_same]
  exact ⟨rfl, rfl⟩

theorem recordForwarded_clamped (node : Nat) (rs : List SetpointRecord) (s : State) (f : Fn) :
    ((recordForwarded node rs s).fn f).clamped = (s.fn f).clamped := by
  unfold recordForwarded
  induction rs generalizing s with
  | nil => rfl
  | cons x rs ih =>
    rw [List.foldl_cons, ih]
    split
    · rfl
    · rename_i g _
      by_cases same : f = g
      · rw [same, State.fn_setFn_same]
      · rw [State.fn_setFn_of_ne _ _ same]

/-! Judging a frame (R105 to R107). -/

theorem recordBytes_eq_none {size : Nat} {payload : List Byte}
    (malformed : ¬∃ c rest, payload = c :: rest ∧ 1 ≤ c.toNat ∧ c.toNat ≤ 8 ∧ rest.length = size * c.toNat) :
    recordBytes size payload = none := by
  cases payload with
  | nil => rfl
  | cons c rest => exact if_neg fun good => malformed ⟨c, rest, rfl, good⟩

theorem recordBytes_eq_some {size : Nat} {c : Byte} {rest : List Byte} (low : 1 ≤ c.toNat) (high : c.toNat ≤ 8)
    (length : rest.length = size * c.toNat) : recordBytes size (c :: rest) = some rest :=
  if_pos ⟨low, high, length⟩

theorem judgeFrame_passes {frame : List Byte} {s : State}
    (other : frameKind frame ≠ 1 ∨ ¬(1 ≤ frameDest frame ∧ frameDest frame ≤ 61)) :
    judgeFrame frame s = (some frame, s) := by
  unfold judgeFrame
  exact if_pos other

section Setpoint

variable {frame : List Byte} {s : State} (kind : frameKind frame = 1) (low : 1 ≤ frameDest frame)
  (high : frameDest frame ≤ 61)

include kind low high

theorem judgeFrame_malformed (malformed : recordBytes 3 (framePayload frame) = none) :
    judgeFrame frame s = if s.active && nodeMapped s (frameDest frame) then (none, s) else (some frame, s) := by
  have setpoint : ¬(frameKind frame ≠ kindSetpoint ∨ ¬(1 ≤ frameDest frame ∧ frameDest frame ≤ 61)) := by
    simp [kind, low, high, kindSetpoint]
  simp only [judgeFrame, if_neg setpoint, malformed]

/-- The state after a well-formed frame for a node: marks first, then what is kept as last transmitted values; a frame of
which nothing is kept starts no transmission. -/
theorem judgeFrame_wellFormed {bs : List Byte} (wellFormed : recordBytes 3 (framePayload frame) = some bs) :
    ∃ t, judgeFrame frame s =
        (if ((setpointRecords bs).map (judgeRecord s (frameDest frame))).filterMap Prod.fst = [] then none
          else if ((setpointRecords bs).map (judgeRecord s (frameDest frame))).filterMap Prod.fst = setpointRecords bs then
            some frame
          else some (sealFrame (frameByte frame 0) (frameByte frame 1) (frameByte frame 2)
            (setpointPayload (((setpointRecords bs).map (judgeRecord s (frameDest frame))).filterMap Prod.fst))), t) ∧
      t = recordForwarded (frameDest frame) (((setpointRecords bs).map (judgeRecord s (frameDest frame))).filterMap Prod.fst)
        (markClamped (((setpointRecords bs).map (judgeRecord s (frameDest frame))).filterMap Prod.snd) s) := by
  have setpoint : ¬(frameKind frame ≠ kindSetpoint ∨ ¬(1 ≤ frameDest frame ∧ frameDest frame ≤ 61)) := by
    simp [kind, low, high, kindSetpoint]
  refine ⟨_, ?_, rfl⟩
  simp only [judgeFrame, if_neg setpoint, wellFormed]
  split
  · rename_i none
    rw [none]
    rfl
  · split <;> rfl

end Setpoint

/-- Settles O18, by the judgement of each record and what the kept ones leave. -/
theorem toolRecordsAreRemovedOrClamped : Obligations.ToolRecordsAreRemovedOrClamped := by
  refine ⟨fun s node r => ⟨fun nobody => judgeRecord_of_nobody (fnAt_eq_none nobody), judgeRecord_of_transparent⟩,
    fun s node r f active distinct low holds => ?_, fun s frame => ⟨judgeFrame_passes, fun kind low high => ⟨?_, ?_⟩⟩⟩
  · have found := fnAt_of_assign distinct low holds
    refine ⟨judgeRecord_of_part active found, fun tool ordered => ?_⟩
    exact ⟨_, _, judgeRecord_of_tool active found tool, clampedNode_eq ordered, (if_pos ·), (if_neg ·)⟩
  · intro malformed
    have eq := judgeFrame_malformed (s := s) kind low high (recordBytes_eq_none malformed)
    have watches : (s.active && nodeMapped s (frameDest frame)) = true ↔ (s.mgmt.mode = .active ∧
        ((∃ f c, (s.fn f).assign = some c ∧ c.node = frameDest frame) ∨
          ∃ c, s.fmap.sensor = some c ∧ c.node = frameDest frame)) := by
      rw [Bool.and_eq_true, nodeMapped_iff]
      exact and_congr_left fun _ => ⟨mode_of_active, active_eq_true⟩
    exact ⟨fun watched => eq.trans (if_pos (watches.mpr watched)),
      fun unwatched => eq.trans (if_neg fun w => unwatched (watches.mp w))⟩
  · intro c rest payload one eight length
    obtain ⟨t, judged, state⟩ := judgeFrame_wellFormed (s := s) kind low high
      (by rw [payload]; exact recordBytes_eq_some one eight length)
    have marked := markClamped_kept (trafficMoved_kept s).toSendDKept
      (((setpointRecords rest).map (judgeRecord s (frameDest frame))).filterMap Prod.snd) (TrafficMoved.refl s)
    have moved := recordForwarded_trafficMoved (frameDest frame)
      (((setpointRecords rest).map (judgeRecord s (frameDest frame))).filterMap Prod.fst) marked
    rw [← state] at moved
    refine ⟨_, _, t, rfl, rfl, judged, fun f => ?_, fun f pre x post kept names last => ?_, fun f others => ?_,
      moved.2.2.1, moved.2.1, ?_⟩
    · rw [state, recordForwarded_clamped, markClamped_fn]
      split
      · rename_i mem
        simp only [true_iff]
        exact .inr (by simpa using mem)
      · rename_i notMem
        refine ⟨.inl, fun either => either.resolve_right fun mem => notMem (by simpa using mem)⟩
    · rw [state, kept, ← marked.offset]
      exact recordForwarded_fn_of_last (by rw [fnAt_congr marked.assign]; exact names)
        (fun y mem => by rw [fnAt_congr marked.assign]; exact last y mem)
    · rw [state, recordForwarded_fn_of_others (fun y mem => by rw [fnAt_congr marked.assign]; exact others y mem),
        markClamped_fn]
      split <;> exact ⟨rfl, rfl⟩
    · have only := judgeFrame_only frame s
      rw [judged] at only
      exact only

end Sys2Proof.Machine


/-! ## The part's SETPOINT frame, and Port D's turns (R109, R110, R129, R130) -/

namespace Sys2Proof.Machine

/-! The oldest eligible slot (R109, step 1). -/

theorem fnCode_rises : Fn.all.Pairwise (fun f g => fnCode f < fnCode g) := by decide

/-- Of the oldest candidates the first is chosen. -/
theorem foldl_olderSlot_first {s : State} {best f : Fn} {fs : List Fn}
    (rises : (best :: fs).Pairwise (fun f g => fnCode f < fnCode g)) (chosen : fs.foldl (olderSlot s) (some best) = some f) :
    ∀ g ∈ best :: fs, slotAge s g = slotAge s f → fnCode f ≤ fnCode g := by
  induction fs generalizing best with
  | nil =>
    intro g mem _
    cases Option.some.inj chosen
    rw [List.mem_singleton.mp mem]
  | cons k fs ih =>
    obtain ⟨first, later⟩ := List.pairwise_cons.mp rises
    intro g mem same
    rw [List.foldl_cons] at chosen
    by_cases older : slotAge s best < slotAge s k
    · rw [show olderSlot s (some best) k = some k from if_pos older] at chosen
      obtain ⟨f', chosen', _, least, _⟩ := foldl_olderSlot s k fs
      cases Option.some.inj (chosen.symm.trans chosen')
      rcases List.mem_cons.mp mem with rfl | mem
      · omega
      · exact ih later chosen g mem same
    · rw [show olderSlot s (some best) k = some best from if_neg older] at chosen
      have shorter : (best :: fs).Pairwise (fun f g => fnCode f < fnCode g) :=
        List.pairwise_cons.mpr ⟨fun g mem => first g (List.mem_cons_of_mem _ mem), (List.pairwise_cons.mp later).2⟩
      obtain ⟨f', chosen', _, least, _, strict⟩ := foldl_olderSlot s best fs
      cases Option.some.inj (chosen.symm.trans chosen')
      rcases List.mem_cons.mp mem with rfl | mem
      · exact ih shorter chosen g List.mem_cons_self same
      · rcases List.mem_cons.mp mem with rfl | mem
        · have isBest : f = best := by
            by_contra other
            have := strict other
            omega
          rw [isBest]
          exact (first _ List.mem_cons_self).le
        · exact ih shorter chosen g (List.mem_cons_of_mem _ mem) same

theorem oldestSlot_spec {s : State} {f : Fn} (oldest : oldestSlot s = some f) :
    slotEligible s f = true ∧
      ∀ g, slotEligible s g = true →
        slotAge s g ≤ slotAge s f ∧ (slotAge s g = slotAge s f → fnCode f ≤ fnCode g) := by
  have rises : (eligibleSlots s).Pairwise (fun f g => fnCode f < fnCode g) := fnCode_rises.filter _
  unfold oldestSlot at oldest
  cases slots : eligibleSlots s with
  | nil => rw [slots] at oldest; cases oldest
  | cons best fs =>
    have member {g : Fn} (eligible : slotEligible s g = true) : g ∈ best :: fs :=
      slots ▸ mem_eligibleSlots.mpr eligible
    rw [slots] at oldest rises
    obtain ⟨f', chosen, among, least, most, _⟩ := foldl_olderSlot s best fs
    cases Option.some.inj (chosen.symm.trans oldest)
    refine ⟨mem_eligibleSlots.mp (slots ▸ List.mem_cons.mpr among), fun g eligible => ⟨?_, ?_⟩⟩
    · rcases List.mem_cons.mp (member eligible) with rfl | mem
      · exact least
      · exact most g mem
    · exact foldl_olderSlot_first rises chosen g (member eligible)

/-! The gathered slots (R109, steps 2 and 3). -/

theorem mem_gatheredSlots {s : State} (distinct : ChannelsDistinct s) {node c : Nat} {f : Fn} :
    (c, f) ∈ gatheredSlots s node ↔
      c ≤ 7 ∧ slotEligible s f = true ∧ (s.fn f).assign = some { node, channel := c } := by
  simp only [gatheredSlots, List.mem_filterMap, List.mem_range, Option.map_eq_some_iff, Prod.mk.injEq]
  constructor
  · rintro ⟨c', low, g, found, rfl, rfl⟩
    exact ⟨by omega, mem_eligibleSlots.mp (List.mem_of_find?_eq_some found), by simpa using List.find?_some found⟩
  · rintro ⟨low, eligible, holds⟩
    refine ⟨c, by omega, f, ?_, rfl, rfl⟩
    cases found : (eligibleSlots s).find? fun f => decide ((s.fn f).assign = some ⟨node, c⟩) with
    | none =>
      rw [List.find?_eq_none] at found
      exact absurd holds (by simpa using found f (mem_eligibleSlots.mpr eligible))
    | some g =>
      have holdsG : (s.fn g).assign = some ⟨node, c⟩ := by simpa using List.find?_some found
      rw [distinct.functions g f _ holdsG holds]

theorem gatheredSlots_rises (s : State) (node : Nat) : (gatheredSlots s node).Pairwise fun a b => a.1 < b.1 := by
  refine List.Pairwise.filterMap _ (fun a b less x hx y hy => ?_) (List.pairwise_lt_range (n := 8))
  obtain ⟨_, _, rfl⟩ := Option.map_eq_some_iff.mp hx
  obtain ⟨_, _, rfl⟩ := Option.map_eq_some_iff.mp hy
  exact less

theorem fst_le_of_mem_gatheredSlots {s : State} {node : Nat} {g : Nat × Fn} (mem : g ∈ gatheredSlots s node) :
    g.1 ≤ 7 := by
  simp only [gatheredSlots, List.mem_filterMap, List.mem_range, Option.map_eq_some_iff] at mem
  obtain ⟨c, low, f, _, rfl⟩ := mem
  exact Nat.le_of_lt_succ low

theorem slotRecord_channel {s : State} {node : Nat} {g : Nat × Fn} (mem : g ∈ gatheredSlots s node) :
    (slotRecord s g.1 g.2).channel.toNat = g.1 := byte_toNat (by have := fst_le_of_mem_gatheredSlots mem; omega)

/-! Departing slots (R109, R110). -/

theorem departSlot_slots (s : State) (f g : Fn) :
    (departSlot s f).slots.get g = if g = f then none else s.slots.get g := by
  unfold departSlot
  split
  · rename_i empty
    split
    · rename_i same
      rw [same, empty]
    · rfl
  · show (s.slots.set f none).get g = _
    split
    · rename_i same
      rw [same, PerFn.get_set_same]
    · exact PerFn.get_set_of_ne _ _ ‹_›

theorem departSlot_fn_of_ne {s : State} {f g : Fn} (other : g ≠ f) : (departSlot s f).fn g = s.fn g := by
  unfold departSlot
  split
  · rfl
  · exact State.fn_setFn_of_ne _ _ other

/-- What a departing slot leaves in its function's entry. -/
def departed (s : State) (f : Fn) (v : Slot) : FnState :=
  { s.fn f with lastTx := some { node := nodeValue s f v.value, value := v.value }, echo := 0 }

theorem departSlot_fn_same {s : State} {f : Fn} {v : Slot} (pending : s.slots.get f = some v) :
    (departSlot s f).fn f = departed s f v := by
  unfold departSlot
  rw [pending]
  exact State.fn_setFn_same _ _ _

theorem departSlot_only (s : State) (f : Fn) : { departSlot s f with slots := s.slots, fmap := s.fmap } = s := by
  unfold departSlot
  split <;> rfl

theorem departSlot_sensor (s : State) (f : Fn) : (departSlot s f).fmap.sensor = s.fmap.sensor := by
  unfold departSlot
  split <;> rfl

/-- The departure of several slots. -/
def departSlots (fs : List (Nat × Fn)) (s : State) : State := fs.foldl (fun s g => departSlot s g.2) s

theorem departSlots_only (fs : List (Nat × Fn)) (s : State) :
    { departSlots fs s with slots := s.slots, fmap := s.fmap } = s := by
  induction fs generalizing s with
  | nil => rfl
  | cons g fs ih =>
    have rest := congrArg (fun t : State => { t with slots := s.slots, fmap := s.fmap }) (ih (departSlot s g.2))
    exact rest.trans (departSlot_only s g.2)

theorem departSlots_sensor (fs : List (Nat × Fn)) (s : State) : (departSlots fs s).fmap.sensor = s.fmap.sensor := by
  induction fs generalizing s with
  | nil => rfl
  | cons g fs ih => exact (ih _).trans (departSlot_sensor s g.2)

theorem departSlots_slots (fs : List (Nat × Fn)) (s : State) (g : Fn) :
    (departSlots fs s).slots.get g = if g ∈ fs.map Prod.snd then none else s.slots.get g := by
  induction fs generalizing s with
  | nil => rfl
  | cons k fs ih =>
    rw [show departSlots (k :: fs) s = departSlots fs (departSlot s k.2) from rfl, ih, departSlot_slots]
    simp only [List.map_cons, List.mem_cons]
    by_cases same : g = k.2
    · rw [if_pos same, if_pos (Or.inl same), ite_self]
    · simp only [same, false_or, if_false]

theorem departSlots_fn_of_not_mem {fs : List (Nat × Fn)} {s : State} {g : Fn} (notMem : g ∉ fs.map Prod.snd) :
    (departSlots fs s).fn g = s.fn g := by
  induction fs generalizing s with
  | nil => rfl
  | cons k fs ih =>
    simp only [List.map_cons, List.mem_cons, not_or] at notMem
    exact (ih notMem.2).trans (departSlot_fn_of_ne notMem.1)

theorem departSlots_of_empty {fs : List (Nat × Fn)} {s : State} {g : Fn} (empty : s.slots.get g = none) :
    (departSlots fs s).fn g = s.fn g := by
  induction fs generalizing s with
  | nil => rfl
  | cons k fs ih =>
    have still : (departSlot s k.2).slots.get g = none := by rw [departSlot_slots, empty, ite_self]
    refine (ih still).trans ?_
    by_cases same : g = k.2
    · unfold departSlot
      rw [← same, empty]
    · exact departSlot_fn_of_ne same

theorem departSlots_fn_of_mem {fs : List (Nat × Fn)} {s : State} {g : Fn} {v : Slot} (mem : g ∈ fs.map Prod.snd)
    (pending : s.slots.get g = some v) : (departSlots fs s).fn g = departed s g v := by
  induction fs generalizing s with
  | nil => cases mem
  | cons k fs ih =>
    by_cases same : g = k.2
    · have empty : (departSlot s k.2).slots.get g = none := by rw [departSlot_slots, if_pos same]
      refine (departSlots_of_empty (fs := fs) empty).trans ?_
      rw [← same]
      exact departSlot_fn_same pending
    · have later : g ∈ fs.map Prod.snd := by simpa [same] using mem
      have still : (departSlot s k.2).slots.get g = some v := by rw [departSlot_slots, if_neg same, pending]
      refine (ih later still).trans ?_
      have store : (departSlot s k.2).store = s.store := by
        have e := congrArg State.store (departSlot_only s k.2)
        exact e
      unfold departed nodeValue State.offset
      rw [departSlot_fn_of_ne same, store]

theorem nodeValue_eq (s : State) (f : Fn) (v : Int) :
    (nodeValue s f v : Int) = max 0 (min 65535 (v + s.offset f)) := clampInt_word_toNat _

theorem mem_gathered_iff {s : State} (distinct : ChannelsDistinct s) {node : Nat} {g : Fn} :
    g ∈ (gatheredSlots s node).map Prod.snd ↔
      slotEligible s g = true ∧ ∃ c, c ≤ 7 ∧ (s.fn g).assign = some { node, channel := c } := by
  simp only [List.mem_map, Prod.exists, exists_eq_right, mem_gatheredSlots distinct]
  constructor
  · rintro ⟨c, low, eligible, holds⟩
    exact ⟨eligible, c, low, holds⟩
  · rintro ⟨eligible, c, low, holds⟩
    exact ⟨c, low, eligible, holds⟩

/-- What a SETPOINT frame of the part is made of, and what its start leaves. -/
theorem setpointFrame_eq {s t : State} {frame : List Byte} (sends : setpointFrame s = some (frame, t)) :
    ∃ f ch, oldestSlot s = some f ∧ (s.fn f).assign = some ch ∧
      frame = ownFrame ch.node s.base.ownAddr 1
        (setpointPayload ((gatheredSlots s ch.node).map fun g => slotRecord s g.1 g.2)) ∧
      t = departSlots (gatheredSlots s ch.node) s := by
  cases oldest : oldestSlot s with
  | none => rw [setpointFrame, oldest] at sends; cases sends
  | some f =>
    cases assigned : (s.fn f).assign with
    | none =>
      rw [setpointFrame, oldest, Option.bind_some, assigned] at sends
      cases sends
    | some ch =>
      rw [setpointFrame_of_oldest oldest assigned] at sends
      cases sends
      exact ⟨f, ch, rfl, assigned, rfl, rfl⟩

theorem mem_records_iff {s : State} (distinct : ChannelsDistinct s) {node : Nat} {x : SetpointRecord} :
    x ∈ (gatheredSlots s node).map (fun g => slotRecord s g.1 g.2) ↔
      x.channel.toNat ≤ 7 ∧ ∃ g v, slotEligible s g = true ∧
        (s.fn g).assign = some { node, channel := x.channel.toNat } ∧ s.slots.get g = some v ∧
        (x.value : Int) = max 0 (min 65535 ((v.value : Int) + s.offset g)) := by
  rw [List.mem_map]
  constructor
  · rintro ⟨⟨c, g⟩, mem, rfl⟩
    have channel := slotRecord_channel mem
    obtain ⟨low, eligible, holds⟩ := (mem_gatheredSlots distinct).mp mem
    obtain ⟨v, pending⟩ := Option.isSome_iff_exists.mp (slotEligible_iff.mp eligible).1
    refine ⟨by rw [channel]; exact low, g, v, eligible, by rw [channel]; exact holds, pending, ?_⟩
    unfold slotRecord
    rw [pending]
    exact nodeValue_eq s g v.value
  · rintro ⟨low, g, v, eligible, holds, pending, value⟩
    refine ⟨(x.channel.toNat, g), (mem_gatheredSlots distinct).mpr ⟨low, eligible, holds⟩, ?_⟩
    obtain ⟨channel, n⟩ := x
    have same : nodeValue s g v.value = n := Int.ofNat.inj ((nodeValue_eq s g v.value).trans value.symm)
    simp only [slotRecord, pending, Option.map_some, Option.getD_some, same, BitVec.ofNat_toNat, BitVec.setWidth_eq]

theorem records_rise (s : State) (node : Nat) :
    (((gatheredSlots s node).map fun g => slotRecord s g.1 g.2).map fun x => x.channel.toNat).Pairwise (· < ·) := by
  rw [List.map_map, List.pairwise_map]
  refine (gatheredSlots_rises s node).imp_of_mem fun {a b} ma mb less => ?_
  show (slotRecord s a.1 a.2).channel.toNat < (slotRecord s b.1 b.2).channel.toNat
  rw [slotRecord_channel ma, slotRecord_channel mb]
  exact less

/-- Settles O20: the gathered slots make the frame and empty, and the turns are those of Port D's choice. -/
theorem setpointFrameEmptiesItsSlots : Obligations.SetpointFrameEmptiesItsSlots := by
  refine ⟨fun s t frame sends distinct => ?_, fun s => ⟨fun free => ⟨fun waits turn => ?_, fun frame rest waits turn =>
    ⟨fun sent t judged => ?_, fun t judged => ?_⟩, fun none down => ?_⟩, fun busy => ?_⟩⟩
  · obtain ⟨f, ch, oldest, assigned, rfl, rfl⟩ := setpointFrame_eq sends
    obtain ⟨eligible, most⟩ := oldestSlot_spec oldest
    refine ⟨f, ch, _, eligible, assigned, most, rfl, records_rise s ch.node, fun x => mem_records_iff distinct,
      fun g gathered => ?_, fun g left => ?_, departSlots_only _ s, departSlots_sensor _ s⟩
    · have mem := (mem_gathered_iff distinct).mpr gathered
      obtain ⟨v, pending⟩ := Option.isSome_iff_exists.mp (slotEligible_iff.mp gathered.1).1
      refine ⟨by rw [departSlots_slots, if_pos mem], v, nodeValue s g v.value, pending, nodeValue_eq s g v.value, ?_⟩
      exact departSlots_fn_of_mem mem pending
    · have notMem := mt (mem_gathered_iff distinct).mp left
      exact ⟨by rw [departSlots_slots, if_neg notMem], departSlots_fn_of_not_mem notMem⟩
  · obtain ⟨frame, t, sends⟩ := setpointFrame_of_eligible waits
    obtain ⟨_, _, _, _, _, state⟩ := setpointFrame_eq sends
    have only := departSlots_only (gatheredSlots s ‹NodeChannel›.node) s
    rw [← state] at only
    have port : t.portD = s.portD := by have e := congrArg State.portD only; exact e
    have fwd : t.fwd = s.fwd := by have e := congrArg State.fwd only; exact e
    have chosen := (chooseD_own s.fwd.down.length free waits turn).trans (sendOwnD_of_frame sends)
    refine ⟨frame, t, sends, ?_, ?_, ?_, ?_⟩
    · rw [settle, chooseU_portD, chosen, ← port]; rfl
    · rw [settle, chooseU_slots, chosen]
    · rw [settle, chooseU_fmap, chosen]
    · rw [settle, chooseU_down, chosen, ← fwd]
  · have chosen := chooseD_sends s.fwd.down.length free waits turn judged
    have field {α : Type} (f : State → α) (unread : ∀ (t : State) (m : FunctionMap), f { t with fmap := m } = f t) :
        f t = f { s with fwd := { s.fwd with down := rest } } := by
      have e := judgeFrame_field f unread frame { s with fwd := { s.fwd with down := rest } }
      rw [judged] at e
      exact e
    refine ⟨?_, ?_, ?_, ?_⟩
    · rw [settle, chooseU_portD, chosen]
      show startFrame .forward sent t.portD = _
      rw [field State.portD fun _ _ => rfl]
      rfl
    · rw [settle, chooseU_down, chosen]
      exact congrArg Forwarding.down (field State.fwd fun _ _ => rfl)
    · rw [settle, chooseU_slots, chosen]
      exact field State.slots fun _ _ => rfl
    · rw [settle, chooseU_fmap, chosen]
  · have only := judgeFrame_only frame { s with fwd := { s.fwd with down := rest } }
    rw [judged] at only
    have port : t.portD = s.portD := by have e := congrArg State.portD only; exact e
    have down : t.fwd.down = rest := by have e := congrArg (fun u : State => u.fwd.down) only; exact e
    refine ⟨port, down, ?_⟩
    rw [settle, settle, chooseD_skips _ free waits turn judged, down, waits]
    rfl
  · rw [settle, chooseU_portD, chooseU_slots, chooseU_fmap, chooseD_idle _ down none]
    exact ⟨rfl, rfl, rfl⟩
  · rw [settle, chooseU_portD, chooseU_slots, chooseU_fmap, chooseU_down, chooseD_of_busy _ busy]
    exact ⟨rfl, rfl, rfl, rfl⟩

end Sys2Proof.Machine


/-! ## Frames from Port U, timer expiries, head reads and the flow split -/

namespace Sys2Proof.Machine

/-- An event of a part that runs, as its command's outcome. -/
theorem event_of_running {effect : State → State} {s t : State} (runs : isRunning s = true) (brings : effect s = t) :
    (.next (whenRunning effect s) : Result) = .next (settle t) := by
  rw [whenRunning_of_running runs, brings]

/-- An expiry whose timer is due brings its effect. -/
theorem expiry_of_due {due : State → Bool} {effect : State → State} {s t : State} (runs : isRunning s = true)
    (isDue : due s = true) (brings : effect s = t) :
    (.next (whenRunning (fun s => if due s then effect s else s) s) : Result) = .next (settle t) :=
  event_of_running runs ((if_pos isDue).trans brings)

/-! Frames collected on Port U (R124). -/

/-- Settles O22: by the frame's check, its destination and its kind. -/
theorem portUSortsFrames : Obligations.PortUSortsFrames := by
  intro bytes s runs
  refine ⟨fun bad => ?bad, fun good own kind room => ?request, fun good own dropped => ?dropped,
    fun good other room => ?forward, fun good other full => ?overflow⟩
  case bad => exact event_of_running runs (by rw [receiveU, bad]; rfl)
  case request =>
    refine event_of_running runs ?_
    rw [receiveU, if_pos good, sortUp, if_pos own, if_pos (show frameKind bytes = kindRequest from kind)]
    exact if_pos room
  case dropped =>
    refine event_of_running runs ?_
    rw [receiveU, if_pos good, sortUp, if_pos own]
    rcases dropped with kind | full
    · exact if_neg kind
    · split
      · exact if_neg (Nat.not_lt.mpr full)
      · rfl
  case forward =>
    refine event_of_running runs ?_
    rw [receiveU, if_pos good, sortUp, if_neg other]
    exact if_pos room
  case overflow =>
    refine event_of_running runs ?_
    rw [receiveU, if_pos good, sortUp, if_neg other]
    exact if_neg (Nat.not_lt.mpr full)

/-! Timer expiries (R12, R13, R92, R114, R176). -/

theorem stepTimeoutSource_eq (h : Head) :
    stepTimeoutSource h = (match h with | .a => SourceId.stepTimeoutA | .b => SourceId.stepTimeoutB) := by cases h <;> rfl

theorem sampleGapSource_eq (h : Head) :
    sampleGapSource h = (match h with | .a => SourceId.sampleGapA | .b => SourceId.sampleGapB) := by cases h <;> rfl

theorem currentStep_of_index {s : State} {h : Head} {i : Nat} (index : currentIndex (s.seq h) = some i) :
    s.currentStep h = tableGet s.steps i := by
  simp [State.currentStep, index]

theorem stepTimerDue_of_running {s : State} {h : Head} {d : Time} (runs : (s.seq h).timer = .running d) :
    stepTimerDue s h = reached s.base.time d := by
  rw [stepTimerDue, runs]

theorem stepTimerDue_of_not_due {s : State} {h : Head}
    (notDue : ∀ d, (s.seq h).timer = .running d → reached s.base.time d = false) : stepTimerDue s h = false := by
  unfold stepTimerDue
  split
  · exact notDue _ ‹_›
  all_goals rfl

theorem stepTimerExpires_of_endpoint {s : State} {h : Head} {i : Nat} {st : StepRecord}
    (index : currentIndex (s.seq h) = some i) (step : tableGet s.steps i = some st) (mode : st.endMode = .endpoint) :
    stepTimerExpires h s =
      occurrence (stepTimeoutSource h) (.step i) (s.setSeq h { s.seq h with timer := .expired }) := by
  simp only [stepTimerExpires, currentStep_of_index index, step, mode, index, Option.getD_some]

theorem stepTimerExpires_of_time {s : State} {h : Head} {i : Nat} {st : StepRecord}
    (index : currentIndex (s.seq h) = some i) (step : tableGet s.steps i = some st) (mode : st.endMode ≠ .endpoint) :
    stepTimerExpires h s = endStep h .time s := by
  simp only [stepTimerExpires, currentStep_of_index index, step]
  cases endMode : st.endMode with
  | endpoint => exact absurd endMode mode
  | time => rfl
  | endpointOrTime => rfl

/-- Settles O38: by the timer and the end mode. -/
theorem stepTimerExpiryActsByEndMode : Obligations.StepTimerExpiryActsByEndMode := by
  intro s h i st runs index step
  refine ⟨fun d timer due => ⟨fun mode => ?endpoint, fun mode => ?time⟩, fun notDue => ?notDue, fun idle => ?idle⟩
  case endpoint =>
    refine expiry_of_due (due := (stepTimerDue · h)) runs ((stepTimerDue_of_running timer).trans due) ?_
    rw [stepTimerExpires_of_endpoint index step mode]
    cases h <;> rfl
  case time =>
    exact expiry_of_due (due := (stepTimerDue · h)) runs ((stepTimerDue_of_running timer).trans due)
      (stepTimerExpires_of_time index step mode)
  case notDue => exact event_of_running runs (by rw [stepTimerDue_of_not_due notDue]; rfl)
  case idle => exact event_of_running runs (by rw [idle])

theorem deadlineDue_some {s : State} {d : Time} (due : reached s.base.time d = true) : deadlineDue s (some d) = true := by
  simpa [deadlineDue] using due

/-- Settles O40, timer by timer. -/
theorem timerExpiriesReport : Obligations.TimerExpiriesReport := by
  intro s d runs due
  refine ⟨fun h i index gap => ?gap, fun run conditions phase => ?arrival, fun timer => ?supervision,
    fun f k dwell group => ?deviation⟩
  case gap =>
    refine expiry_of_due (due := fun s => deadlineDue s (s.seq h).gap) runs (by rw [gap]; exact deadlineDue_some due) ?_
    rw [sampleGapExpires, index]
    cases h <;> rfl
  case arrival =>
    refine expiry_of_due (due := fun s => deadlineDue s (arrivalDeadline s.cdr.run)) runs ?_ ?_
    · have deadline : arrivalDeadline s.cdr.run = some d := by
        obtain ⟨_, _, _, _, _, _, _⟩ := run
        rw [conditions]
        cases phase
        rfl
      rw [deadline]
      exact deadlineDue_some due
    · rw [arrivalExpires, conditions]
      rfl
  case supervision =>
    exact expiry_of_due (due := fun s => deadlineDue s s.mgmt.supTimer) runs (by rw [timer]; exact deadlineDue_some due) rfl
  case deviation =>
    have expires {t : State} (becomes : becomeDeviated f s = t) :
        exec (.deviationDwellExpiry f) s = .next (settle t) :=
      expiry_of_due (due := (deviationDue · f)) runs (by rw [deviationDue, dwell]; exact due) becomes
    refine ⟨fun calm => expires ?_, fun ⟨g, feeds, deviated⟩ => expires ?_⟩
    · have calm : groupDeviated s k = false := by
        rw [Bool.eq_false_iff]
        exact fun deviated => by
          obtain ⟨g, feeds, is⟩ := groupDeviated_iff.mp deviated
          exact calm g feeds is
      simp [becomeDeviated, group, calm]
    · simp [becomeDeviated, group, groupDeviated_iff.mpr ⟨g, feeds, deviated⟩]

/-! Reads of a head (R27, R67). -/

theorem wholeWalk_readResult_summary (b : Byte) : wholeWalk readResultArgs [b, 1] = some ⟨b.toNat, 1, 0⟩ := rfl

theorem wholeWalk_readResult_step (b c : Byte) : wholeWalk readResultArgs [b, 2, c] = some ⟨b.toNat, 2, c.toNat⟩ := rfl

theorem wholeWalk_readProfile (b c d : Byte) : wholeWalk readProfileArgs [b, c, d] = some ⟨b.toNat, c.toNat, d.toNat⟩ := rfl

theorem summaryBytes_served (r : Request) (s : State) (h : Head) : summaryBytes (served r s) h = summaryBytes s h := by
  simp only [summaryBytes, served_seq, served_base]

theorem profileHeader_served (r : Request) (s : State) (h : Head) : profileHeader (served r s) h = profileHeader s h := by
  simp only [profileHeader, served_seq, served_sampler]

theorem byte_of_le {k n : Nat} (le : k ≤ n) (small : n < 256 := by decide) : (BitVec.ofNat 8 k).toNat = k :=
  byte_toNat (by omega)

/-- Settles O37: none of these owning rules writes. -/
theorem headReadsChangeNothing : Obligations.HeadReadsChangeNothing := by
  intro r s h adm
  refine ⟨fun args => ?summary, fun k low high args => ?step, fun z args => ?computation, fun k low high args => ?history⟩
  case summary =>
    refine request_reads 19 adm (by rw [args]; exact wholeWalk_readResult_summary _) ?_
    simp only [ownReadResult, byte_headCode, headOfCode_headCode, summaryBytes_served]
    rfl
  case step =>
    refine request_reads 19 adm (by rw [args]; exact wholeWalk_readResult_step _ _) ?_
    rw [byte_of_le high]
    simp only [ownReadResult, byte_headCode, headOfCode_headCode, served_seq]
    rw [if_neg (by decide), if_pos ⟨rfl, low, high⟩]
    cases (s.seq h).results[k - 1]? <;> rfl
  case computation =>
    refine request_reads 20 adm (by rw [args]; exact wholeWalk_readProfile _ _ _) ?_
    rw [byte_zoneCode, byte_headCode]
    simp only [ownReadProfile, headOfCode_headCode, zoneOfCode_zoneCode, profileHeader_served]
    rw [if_pos (by rfl), show (served r s).comp h = s.comp h by rw [State.comp, served_comps]; rfl]
    cases s.comp h <;> rfl
  case history =>
    refine request_reads 20 adm (by rw [args]; exact wholeWalk_readProfile _ _ _) ?_
    rw [byte_of_le high, byte_headCode]
    simp only [ownReadProfile, headOfCode_headCode, profileHeader_served, served_sampler]
    rw [if_neg (by decide), if_pos ⟨rfl, low, high⟩]
    cases (s.sampler h).history.reverse[k - 1]? <;> rfl

/-! The flow split (R83). -/

/-- What the truncated shares of a total leave over is less than three. -/
theorem shares_sum {a b c total : Nat} (whole : a + b + c = 1000) :
    share total a + share total b + share total c ≤ total ∧
      total ≤ share total a + share total b + share total c + 2 := by
  have sum : total * a + total * b + total * c = total * 1000 := by rw [← whole]; ring
  unfold share
  omega

/-- Just one channel gets the remainder: the lowest-numbered of the largest ratio (R83, step 3). -/
theorem largestChannel_cases (b : Blend) :
    (largestChannel b = 1 ∧ b.ratio2 ≤ b.ratio1 ∧ b.ratio3 ≤ b.ratio1) ∨
    (largestChannel b = 2 ∧ b.ratio1 < b.ratio2 ∧ b.ratio3 ≤ b.ratio2) ∨
    (largestChannel b = 3 ∧ b.ratio1 < b.ratio3 ∧ b.ratio2 < b.ratio3) := by
  unfold largestChannel
  split
  · exact .inl ⟨rfl, by assumption⟩
  · split
    · exact .inr (.inl ⟨rfl, by omega, by omega⟩)
    · exact .inr (.inr ⟨rfl, by omega, by omega⟩)

theorem splitRemainder_le {b : Blend} (total : Nat) (whole : b.ratio1 + b.ratio2 + b.ratio3 = 1000) :
    splitRemainder b total ≤ 2 := by
  have := shares_sum (total := total) whole
  unfold splitRemainder
  omega

/-- Before the channel maxima act, the three channels carry the total (R83). -/
theorem channelFlow_sum {b : Blend} (total : Nat) (whole : b.ratio1 + b.ratio2 + b.ratio3 = 1000) :
    channelFlow b total 1 b.ratio1 + channelFlow b total 2 b.ratio2 + channelFlow b total 3 b.ratio3 = total := by
  have bounds := shares_sum (total := total) whole
  have rest : splitRemainder b total =
    total - (share total b.ratio1 + share total b.ratio2 + share total b.ratio3) := rfl
  unfold channelFlow
  rcases largestChannel_cases b with ⟨is, -⟩ | ⟨is, -⟩ | ⟨is, -⟩ <;> simp only [is] <;> simp <;> omega

theorem largestChannel_eq_one {b : Blend} : largestChannel b = 1 ↔ b.ratio2 ≤ b.ratio1 ∧ b.ratio3 ≤ b.ratio1 := by
  have := largestChannel_cases b
  omega

theorem largestChannel_eq_two {b : Blend} : largestChannel b = 2 ↔ b.ratio1 < b.ratio2 ∧ b.ratio3 ≤ b.ratio2 := by
  have := largestChannel_cases b
  omega

theorem largestChannel_eq_three {b : Blend} : largestChannel b = 3 ↔ b.ratio1 < b.ratio3 ∧ b.ratio2 < b.ratio3 := by
  have := largestChannel_cases b
  omega

/-- Settles O41: the channels before their maxima carry the clamped total, and a maximum only lowers one. -/
theorem flowSplitKeepsTheTotal : Obligations.FlowSplitKeepsTheTotal := by
  intro l b n whole
  have sum := channelFlow_sum (splitTotal l b n) whole
  have total : splitTotal l b n ≤ l.totalMax := Nat.min_le_right _ _
  refine ⟨Nat.min_le_right _ _, Nat.min_le_right _ _, Nat.min_le_right _ _, rfl, ?_, fun one two three => ?_, ?_⟩
  · show min _ _ + min _ _ + min _ _ ≤ splitTotal l b n
    omega
  · show min _ _ + min _ _ + min _ _ = splitTotal l b n
    omega
  · rintro _ _ rfl rfl
    refine ⟨splitRemainder_le (splitTotal l b n) whole, ?_, ?_, ?_⟩
    · rw [← if_congr largestChannel_eq_one rfl rfl]
      rfl
    · rw [← if_congr largestChannel_eq_two rfl rfl]
      rfl
    · rw [← if_congr largestChannel_eq_three rfl rfl]
      rfl

end Sys2Proof.Machine


/-! ## Pad and slots: what each operation writes and what it leaves (R10, R11, R73 to R80, R82, R89, R90) -/

namespace Sys2Proof.Machine

/-! Slot writes (R108). -/

theorem writeSlots_get_of_not_mem {f : Fn} {ws : List (Fn × Nat)} (s : State) (others : ∀ w ∈ ws, f ≠ w.1) :
    (writeSlots ws s).slots.get f = s.slots.get f := by
  induction ws generalizing s with
  | nil => rfl
  | cons w ws ih =>
    refine (ih _ fun v mem => others v (List.mem_cons_of_mem _ mem)).trans ?_
    exact writeSlot_get_of_ne _ s (others w List.mem_cons_self)

/-- Of writes to different functions each leaves its value (R108). -/
theorem slotValue_writeSlots {f : Fn} {v : Nat} {ws : List (Fn × Nat)} {s : State} (active : s.active = true)
    (apart : (ws.map Prod.fst).Nodup) (mem : (f, v) ∈ ws) : slotValue (writeSlots ws s) f = some v := by
  induction ws generalizing s with
  | nil => cases mem
  | cons w ws ih =>
    rw [List.map_cons, List.nodup_cons] at apart
    rcases List.mem_cons.mp mem with rfl | later
    · have others : ∀ w ∈ ws, f ≠ w.1 := by
        rintro w later rfl
        exact apart.1 (List.mem_map.mpr ⟨_, later, rfl⟩)
      have kept := writeSlots_get_of_not_mem (writeSlot f v s) others
      show ((writeSlots ws (writeSlot f v s)).slots.get f).map Slot.value = some v
      rw [kept, writeSlot_get_same f v active]
      cases s.slots.get f <;> rfl
    · exact ih (by rw [writeSlot_active, active]) apart.2 later

theorem slotValue_congr {s t : State} {f : Fn} (same : t.slots.get f = s.slots.get f) : slotValue t f = slotValue s f :=
  congrArg (Option.map Slot.value) same

theorem writeSlots_of_not_active {s : State} (still : s.active = false) (ws : List (Fn × Nat)) : writeSlots ws s = s := by
  induction ws with
  | nil => rfl
  | cons w ws ih =>
    have first : writeSlot w.1 w.2 s = s := if_neg (by rw [still]; decide)
    show writeSlots ws (writeSlot w.1 w.2 s) = s
    rw [first, ih]

theorem pressureWrites_nodup (h : Head) (p : PerArea Nat) : ((pressureWrites h p).map Prod.fst).Nodup := by
  have keys : (pressureWrites h p).map Prod.fst = Area.all.map (Fn.head h) := by simp [pressureWrites]
  rw [keys]
  cases h <;> decide

theorem mem_pressureWrites (h : Head) (p : PerArea Nat) (x : Area) : (.head h x, p.get x) ∈ pressureWrites h p :=
  List.mem_map_of_mem (Area.mem_all x)

theorem ne_of_mem_pressureWrites {h : Head} {p : PerArea Nat} {f : Fn} (others : ∀ x, f ≠ .head h x) :
    ∀ w ∈ pressureWrites h p, f ≠ w.1 := by
  rintro w mem rfl
  obtain ⟨x, -, rfl⟩ := List.mem_map.mp mem
  exact others x rfl

theorem writeSlots_writes (ws : List (Fn × Nat)) (s : State) : ∃ x, writeSlots ws s = { s with slots := x } := by
  refine ⟨(writeSlots ws s).slots, ?_⟩
  have e := congrArg (fun t : State => { t with slots := (writeSlots ws s).slots }) (writeSlots_only ws s)
  exact e

/-! The four dosing setpoints (R82). -/

theorem writeDosing_only (d : Dose) (s : State) : { writeDosing d s with dose := s.dose, slots := s.slots } = s := by
  unfold writeDosing
  split
  · have e := congrArg (fun t : State => { t with dose := s.dose })
      (writeSlots_only [(.dose1, d.dose1), (.dose2, d.dose2), (.dose3, d.dose3), (.rinse, d.rinse)]
        { s with dose := { s.dose with current := some d } })
    exact e
  · rfl

theorem writeDosing_field {α : Type} (f : State → α)
    (unread : ∀ (t : State) (d : DosingUnit) (x : PerFn (Option Slot)), f { t with dose := d, slots := x } = f t)
    (d : Dose) (s : State) : f (writeDosing d s) = f s :=
  (unread _ _ _).symm.trans (congrArg f (writeDosing_only d s))

section Dosing

variable (d : Dose) (s : State)

@[simp] theorem writeDosing_samplers : (writeDosing d s).samplers = s.samplers := writeDosing_field _ (fun _ _ _ => rfl) d s
@[simp] theorem writeDosing_comps : (writeDosing d s).comps = s.comps := writeDosing_field _ (fun _ _ _ => rfl) d s
@[simp] theorem writeDosing_arb : (writeDosing d s).arb = s.arb := writeDosing_field _ (fun _ _ _ => rfl) d s
@[simp] theorem writeDosing_cdr : (writeDosing d s).cdr = s.cdr := writeDosing_field _ (fun _ _ _ => rfl) d s
@[simp] theorem writeDosing_mgmt : (writeDosing d s).mgmt = s.mgmt := writeDosing_field _ (fun _ _ _ => rfl) d s
@[simp] theorem writeDosing_store : (writeDosing d s).store = s.store := writeDosing_field _ (fun _ _ _ => rfl) d s
@[simp] theorem writeDosing_base : (writeDosing d s).base = s.base := writeDosing_field _ (fun _ _ _ => rfl) d s
@[simp] theorem writeDosing_steps : (writeDosing d s).steps = s.steps := writeDosing_field _ (fun _ _ _ => rfl) d s
@[simp] theorem writeDosing_active : (writeDosing d s).active = s.active := writeDosing_field _ (fun _ _ _ => rfl) d s
@[simp] theorem writeDosing_lim : (writeDosing d s).lim = s.lim := writeDosing_field _ (fun _ _ _ => rfl) d s

end Dosing

/-- The slots that the dosing unit writes (R82). -/
def dosingFns : List Fn := [.dose1, .dose2, .dose3, .rinse]

theorem writeDosing_of_not_active {d : Dose} {s : State} (still : s.active = false) : writeDosing d s = s :=
  if_neg (by rw [still]; decide)

theorem writeDosing_of_active {d : Dose} {s : State} (active : s.active = true) :
    writeDosing d s = writeSlots [(.dose1, d.dose1), (.dose2, d.dose2), (.dose3, d.dose3), (.rinse, d.rinse)]
      { s with dose := { s.dose with current := some d } } := if_pos active

theorem writeDosing_dose {d : Dose} {s : State} (active : s.active = true) :
    (writeDosing d s).dose = { s.dose with current := some d } := by
  rw [writeDosing_of_active active, writeSlots_dose]

theorem writeDosing_slot_of_not_mem {f : Fn} (d : Dose) (s : State) (other : f ∉ dosingFns) :
    (writeDosing d s).slots.get f = s.slots.get f := by
  unfold writeDosing
  split
  · refine writeSlots_get_of_not_mem _ ?_
    simp only [dosingFns, List.mem_cons, List.not_mem_nil, or_false, not_or] at other
    simp [other]
  · rfl

/-- Dosing writes its four setpoints (R82). -/
theorem writeDosing_values {d : Dose} {s : State} (active : s.active = true) :
    slotValue (writeDosing d s) .dose1 = some d.dose1 ∧ slotValue (writeDosing d s) .dose2 = some d.dose2 ∧
    slotValue (writeDosing d s) .dose3 = some d.dose3 ∧ slotValue (writeDosing d s) .rinse = some d.rinse := by
  rw [writeDosing_of_active active]
  have writes : ∀ f v, (f, v) ∈ [(Fn.dose1, d.dose1), (.dose2, d.dose2), (.dose3, d.dose3), (.rinse, d.rinse)] →
      slotValue (writeSlots [(Fn.dose1, d.dose1), (.dose2, d.dose2), (.dose3, d.dose3), (.rinse, d.rinse)]
        { s with dose := { s.dose with current := some d } }) f = some v := fun f v mem =>
    slotValue_writeSlots active (show [Fn.dose1, .dose2, .dose3, .rinse].Nodup by decide) mem
  exact ⟨writes _ _ (by simp), writes _ _ (by simp), writes _ _ (by simp), writes _ _ (by simp)⟩

theorem entryDose_congr {s t : State} (table : t.arb.table = s.arb.table) (blends : t.dose.blends = s.dose.blends)
    (lim : t.lim = s.lim) (e n : Nat) : entryDose t e n = entryDose s e n := by
  simp only [entryDose, table, blends, lim]

/-! The conditioner's part of a grant (R75, R89, R90). -/

theorem enterTravel_only (run : CondRun) (n : Nat) (seg : Segment) (s : State) :
    { enterTravel run n seg s with cdr := s.cdr, slots := s.slots } = s := by
  have e := congrArg (fun t : State => { t with cdr := s.cdr })
    (writeSlot_only .arm (clampNat s.lim.armMin s.lim.armMax seg.position) s)
  exact e

/-- The travel to a segment: the target is clamped, written to ARM, and the arrival timer runs (R90). -/
theorem enterTravel_cdr (run : CondRun) (n : Nat) (seg : Segment) (s : State) :
    (enterTravel run n seg s).cdr = { s.cdr with
      run := some { run with
        segment := n, target := clampNat s.lim.armMin s.lim.armMax seg.position
        phase := .travel (some (s.base.time + BitVec.ofNat 32 s.lim.arrivalTimeout)) } } := by
  simp [enterTravel, State.setRun, deadlineAfter]

theorem startProgram_only (k : Nat) (s : State) : { startProgram k s with cdr := s.cdr, slots := s.slots } = s := by
  unfold startProgram
  split
  · rfl
  · split
    · rfl
    · rename_i q _ _ seg _
      have travel := congrArg (fun t : State => { t with cdr := s.cdr, slots := s.slots })
        (enterTravel_only { program := k, force := min q.force s.lim.forceMax, speed := min q.speed s.lim.diskMax
                            segment := 1, phase := .travel none, target := 0, passes := 0 } 1 seg
          (writeSlots [(.force, min q.force s.lim.forceMax), (.disk, min q.speed s.lim.diskMax)] s))
      have writes := congrArg (fun t : State => { t with cdr := s.cdr })
        (writeSlots_only [(.force, min q.force s.lim.forceMax), (.disk, min q.speed s.lim.diskMax)] s)
      exact travel.trans writes

theorem conditionEntry_only (e : Nat) (s : State) : { conditionEntry e s with cdr := s.cdr, slots := s.slots } = s := by
  unfold conditionEntry
  split
  · exact startProgram_only _ s
  · obtain ⟨x, wrote⟩ := writeSlots_writes [(.force, 0), (.disk, 0), (.arm, s.lim.park)] s
    rw [wrote]

theorem conditionEntry_field {α : Type} (f : State → α)
    (unread : ∀ (t : State) (c : Conditioner) (x : PerFn (Option Slot)), f { t with cdr := c, slots := x } = f t)
    (e : Nat) (s : State) : f (conditionEntry e s) = f s :=
  (unread _ _ _).symm.trans (congrArg f (conditionEntry_only e s))

section Condition

variable (e : Nat) (s : State)

@[simp] theorem conditionEntry_samplers : (conditionEntry e s).samplers = s.samplers :=
  conditionEntry_field _ (fun _ _ _ => rfl) e s
@[simp] theorem conditionEntry_comps : (conditionEntry e s).comps = s.comps := conditionEntry_field _ (fun _ _ _ => rfl) e s
@[simp] theorem conditionEntry_arb : (conditionEntry e s).arb = s.arb := conditionEntry_field _ (fun _ _ _ => rfl) e s
@[simp] theorem conditionEntry_dose : (conditionEntry e s).dose = s.dose := conditionEntry_field _ (fun _ _ _ => rfl) e s
@[simp] theorem conditionEntry_mgmt : (conditionEntry e s).mgmt = s.mgmt := conditionEntry_field _ (fun _ _ _ => rfl) e s
@[simp] theorem conditionEntry_store : (conditionEntry e s).store = s.store := conditionEntry_field _ (fun _ _ _ => rfl) e s

end Condition

/-- The slots that the conditioner writes (R89). -/
def conditioningFns : List Fn := [.force, .disk, .arm]

theorem startProgram_of_loaded {k : Nat} {q : CondProgram} {seg : Segment} {s : State}
    (loaded : tableGet s.cdr.programs k = some q) (first : q.segments.head? = some seg) :
    startProgram k s =
      enterTravel { program := k, force := min q.force s.lim.forceMax, speed := min q.speed s.lim.diskMax
                    segment := 1, phase := .travel none, target := 0, passes := 0 } 1 seg
        (writeSlots [(.force, min q.force s.lim.forceMax), (.disk, min q.speed s.lim.diskMax)] s) := by
  have segment : segmentAt q 1 = some seg := by rw [segmentAt, if_neg (by decide), ← first, List.head?_eq_getElem?]
  simp only [startProgram, loaded, segment]
  rfl

theorem enterTravel_writes (run : CondRun) (n : Nat) (seg : Segment) (ws : List (Fn × Nat)) (s : State) (f : Fn) :
    (enterTravel run n seg (writeSlots ws s)).slots.get f =
      (writeSlots (ws ++ [(.arm, clampNat s.lim.armMin s.lim.armMax seg.position)]) s).slots.get f := by
  have both : writeSlots (ws ++ [(.arm, clampNat s.lim.armMin s.lim.armMax seg.position)]) s =
      writeSlot .arm (clampNat s.lim.armMin s.lim.armMax seg.position) (writeSlots ws s) := List.foldl_append ..
  rw [both]
  simp [enterTravel, State.setRun]

theorem conditionEntry_slot_of_not_mem {f : Fn} (e : Nat) (s : State) (other : f ∉ conditioningFns) :
    (conditionEntry e s).slots.get f = s.slots.get f := by
  have apart : f ≠ .force ∧ f ≠ .disk ∧ f ≠ .arm := by simpa [conditioningFns] using other
  unfold conditionEntry
  split
  · unfold startProgram
    split
    · rfl
    · split
      · rfl
      · refine (enterTravel_writes _ _ _ [(.force, _), (.disk, _)] s f).trans (writeSlots_get_of_not_mem s ?_)
        simp [apart]
  · exact writeSlots_get_of_not_mem s (by simp [apart])

/-- An entry without a conditioning program: FORCE and DISK 0, the arm parked (R75, step 3). -/
theorem conditionEntry_of_no_program {e : Nat} {s : State}
    (none : (tableGet s.arb.table e).bind PadService.program = none) :
    conditionEntry e s = writeSlots [(.force, 0), (.disk, 0), (.arm, s.lim.park)] s := by
  simp only [conditionEntry, none]

theorem conditionEntry_of_program {e k : Nat} {s : State}
    (some : (tableGet s.arb.table e).bind PadService.program = some k) : conditionEntry e s = startProgram k s := by
  simp only [conditionEntry, some]

theorem writeSlots_conditioning {a b c : Nat} {s : State} (active : s.active = true) :
    slotValue (writeSlots [(.force, a), (.disk, b), (.arm, c)] s) .force = some a ∧
    slotValue (writeSlots [(.force, a), (.disk, b), (.arm, c)] s) .disk = some b ∧
    slotValue (writeSlots [(.force, a), (.disk, b), (.arm, c)] s) .arm = some c := by
  have writes : ∀ f v, (f, v) ∈ [(Fn.force, a), (.disk, b), (.arm, c)] →
      slotValue (writeSlots [(Fn.force, a), (.disk, b), (.arm, c)] s) f = some v := fun f v mem =>
    slotValue_writeSlots active (show [Fn.force, .disk, .arm].Nodup by decide) mem
  exact ⟨writes _ _ (by simp), writes _ _ (by simp), writes _ _ (by simp)⟩

/-- The run that a conditioning program starts with (R89, R90). -/
def startedRun (s : State) (k : Nat) (q : CondProgram) (seg : Segment) : CondRun :=
  { program := k, force := min q.force s.lim.forceMax, speed := min q.speed s.lim.diskMax, segment := 1
    phase := .travel (some (s.base.time + BitVec.ofNat 32 s.lim.arrivalTimeout))
    target := clampNat s.lim.armMin s.lim.armMax seg.position, passes := 0 }

theorem startProgram_cdr {k : Nat} {q : CondProgram} {seg : Segment} {s : State}
    (loaded : tableGet s.cdr.programs k = some q) (first : q.segments.head? = some seg) :
    (startProgram k s).cdr = { s.cdr with run := some (startedRun s k q seg) } := by
  rw [startProgram_of_loaded loaded first, enterTravel_cdr]
  simp [startedRun]

/-- The program's start writes FORCE, DISK and ARM (R89, R90). -/
theorem startProgram_values {k : Nat} {q : CondProgram} {seg : Segment} {s : State} (active : s.active = true)
    (loaded : tableGet s.cdr.programs k = some q) (first : q.segments.head? = some seg) :
    slotValue (startProgram k s) .force = some (min q.force s.lim.forceMax) ∧
    slotValue (startProgram k s) .disk = some (min q.speed s.lim.diskMax) ∧
    slotValue (startProgram k s) .arm = some (clampNat s.lim.armMin s.lim.armMax seg.position) := by
  have reads : ∀ f, slotValue (startProgram k s) f = slotValue (writeSlots [(.force, min q.force s.lim.forceMax),
      (.disk, min q.speed s.lim.diskMax), (.arm, clampNat s.lim.armMin s.lim.armMax seg.position)] s) f := by
    intro f
    rw [startProgram_of_loaded loaded first]
    exact slotValue_congr (enterTravel_writes _ _ _ [(.force, _), (.disk, _)] s f)
  rw [reads, reads, reads]
  exact writeSlots_conditioning active

/-! Pressures of a head (R11, R21, R23). -/

theorem commandAll_writes (h : Head) (p : PerArea Nat) (s : State) :
    ∃ x, commandAll h p s =
      { s with seqs := s.seqs.set h { s.seq h with commanded := PerArea.tabulate fun x => some (p.get x) }, slots := x } := by
  obtain ⟨x, wrote⟩ := writeSlots_writes (pressureWrites h p)
    (s.setSeq h { s.seq h with commanded := PerArea.tabulate fun x => some (p.get x) })
  exact ⟨x, wrote⟩

theorem commandAll_only (h : Head) (p : PerArea Nat) (s : State) :
    { commandAll h p s with seqs := s.seqs, slots := s.slots } = s := by
  obtain ⟨x, wrote⟩ := commandAll_writes h p s
  rw [wrote]

theorem commandAll_field {α : Type} (f : State → α)
    (unread : ∀ (t : State) (q : Pair Sequencer) (x : PerFn (Option Slot)), f { t with seqs := q, slots := x } = f t)
    (h : Head) (p : PerArea Nat) (s : State) : f (commandAll h p s) = f s :=
  (unread _ _ _).symm.trans (congrArg f (commandAll_only h p s))

section Commands

variable (h : Head) (p : PerArea Nat) (s : State)

@[simp] theorem commandAll_samplers : (commandAll h p s).samplers = s.samplers :=
  commandAll_field _ (fun _ _ _ => rfl) h p s
@[simp] theorem commandAll_comps : (commandAll h p s).comps = s.comps := commandAll_field _ (fun _ _ _ => rfl) h p s
@[simp] theorem commandAll_arb : (commandAll h p s).arb = s.arb := commandAll_field _ (fun _ _ _ => rfl) h p s
@[simp] theorem commandAll_dose : (commandAll h p s).dose = s.dose := commandAll_field _ (fun _ _ _ => rfl) h p s
@[simp] theorem commandAll_cdr : (commandAll h p s).cdr = s.cdr := commandAll_field _ (fun _ _ _ => rfl) h p s
@[simp] theorem commandAll_mgmt : (commandAll h p s).mgmt = s.mgmt := commandAll_field _ (fun _ _ _ => rfl) h p s
@[simp] theorem commandAll_store : (commandAll h p s).store = s.store := commandAll_field _ (fun _ _ _ => rfl) h p s
@[simp] theorem commandAll_steps : (commandAll h p s).steps = s.steps := commandAll_field _ (fun _ _ _ => rfl) h p s
@[simp] theorem commandAll_base : (commandAll h p s).base = s.base := commandAll_field _ (fun _ _ _ => rfl) h p s
@[simp] theorem commandAll_lim : (commandAll h p s).lim = s.lim := commandAll_field _ (fun _ _ _ => rfl) h p s

end Commands

theorem commandAll_seqs (h : Head) (p : PerArea Nat) (s : State) :
    (commandAll h p s).seqs =
      s.seqs.set h { s.seq h with commanded := PerArea.tabulate fun x => some (p.get x) } := by
  obtain ⟨x, wrote⟩ := commandAll_writes h p s
  rw [wrote]

theorem commandAll_slot_of_ne {h : Head} {f : Fn} (p : PerArea Nat) (s : State) (others : ∀ x, f ≠ .head h x) :
    (commandAll h p s).slots.get f = s.slots.get f :=
  writeSlots_get_of_not_mem _ (ne_of_mem_pressureWrites others)

theorem commandAll_value {h : Head} (p : PerArea Nat) {s : State} (active : s.active = true) (x : Area) :
    slotValue (commandAll h p s) (.head h x) = some (p.get x) :=
  slotValue_writeSlots active (pressureWrites_nodup h p) (mem_pressureWrites h p x)

theorem polishingEntry_only (h : Head) (s : State) :
    { polishingEntry h s with seqs := s.seqs, samplers := s.samplers, comps := s.comps, slots := s.slots } = s := by
  unfold polishingEntry
  split
  · rfl
  · rename_i st _
    obtain ⟨x, wrote⟩ := commandAll_writes h (basePressures st) s
    rw [wrote]
    rfl

theorem polishingEntry_field {α : Type} (f : State → α)
    (unread : ∀ (t : State) (q : Pair Sequencer) (p : Pair Sampler) (c : Pair (Option Computation))
      (x : PerFn (Option Slot)), f { t with seqs := q, samplers := p, comps := c, slots := x } = f t)
    (h : Head) (s : State) : f (polishingEntry h s) = f s :=
  (unread _ _ _ _ _).symm.trans (congrArg f (polishingEntry_only h s))

section Polishing

variable (h : Head) (s : State)

@[simp] theorem polishingEntry_arb : (polishingEntry h s).arb = s.arb := polishingEntry_field _ (fun _ _ _ _ _ => rfl) h s
@[simp] theorem polishingEntry_dose : (polishingEntry h s).dose = s.dose := polishingEntry_field _ (fun _ _ _ _ _ => rfl) h s
@[simp] theorem polishingEntry_cdr : (polishingEntry h s).cdr = s.cdr := polishingEntry_field _ (fun _ _ _ _ _ => rfl) h s
@[simp] theorem polishingEntry_mgmt : (polishingEntry h s).mgmt = s.mgmt := polishingEntry_field _ (fun _ _ _ _ _ => rfl) h s
@[simp] theorem polishingEntry_store : (polishingEntry h s).store = s.store :=
  polishingEntry_field _ (fun _ _ _ _ _ => rfl) h s

end Polishing

/-- The head's sweeps and last computation are cleared (R48, R65). -/
def clearedHead (h : Head) (s : State) : State := (clearSweeps h s).setComp h none

/-- POLISHING entry on a step (R11, R65). -/
theorem polishingEntry_of_step {h : Head} {s : State} {st : StepRecord} (step : s.currentStep h = some st) :
    polishingEntry h s = (clearedHead h (commandAll h (basePressures st) s)).setSeq h
      { s.seq h with
        commanded := PerArea.tabulate fun x => some ((basePressures st).get x)
        state := .polishing
        timer := .running (s.base.time + BitVec.ofNat 32 st.limit)
        gap := freshGap s st
        current := (s.seq h).current.map fun c => { c with interval := some s.base.time, polished := true } } := by
  have entered : ∀ t : State, (clearedHead h t).seq h = t.seq h := fun _ => rfl
  have gap : freshGap (clearedHead h (commandAll h (basePressures st) s)) st = freshGap s st := by
    obtain ⟨x, wrote⟩ := commandAll_writes h (basePressures st) s
    rw [wrote]
    rfl
  have now : ∀ t : State, (clearedHead h t).base = t.base := fun _ => rfl
  unfold polishingEntry
  rw [step]
  dsimp only
  rw [← clearedHead, gap, entered, commandAll_seq, now, commandAll_base]
  rfl

@[simp] theorem clearedHead_slots (h : Head) (s : State) : (clearedHead h s).slots = s.slots := rfl

section

variable {h : Head} {s : State} {st : StepRecord}

theorem polishingEntry_seq (step : s.currentStep h = some st) :
    (polishingEntry h s).seq h = { s.seq h with
      commanded := PerArea.tabulate fun x => some ((basePressures st).get x)
      state := .polishing
      timer := .running (s.base.time + BitVec.ofNat 32 st.limit)
      gap := freshGap s st
      current := (s.seq h).current.map fun c => { c with interval := some s.base.time, polished := true } } := by
  rw [polishingEntry_of_step step, State.seq_setSeq_same]

theorem polishingEntry_sampler (step : s.currentStep h = some st) :
    (polishingEntry h s).sampler h = { s.sampler h with openSweep := none, counter := 0, history := [] } := by
  rw [polishingEntry_of_step step]
  simp [State.sampler, clearedHead, clearSweeps]

theorem polishingEntry_comp (step : s.currentStep h = some st) : (polishingEntry h s).comp h = none := by
  rw [polishingEntry_of_step step]
  simp [State.comp, clearedHead]

theorem polishingEntry_value (step : s.currentStep h = some st) (active : s.active = true) (x : Area) :
    slotValue (polishingEntry h s) (.head h x) = some ((basePressures st).get x) := by
  rw [polishingEntry_of_step step, slotValue, State.setSeq_slots, clearedHead_slots]
  exact commandAll_value (basePressures st) active x

end

theorem polishingEntry_of_no_step {h : Head} {s : State} (none : s.currentStep h = none) : polishingEntry h s = s := by
  simp only [polishingEntry, none]

theorem polishingEntry_other (h : Head) (s : State) :
    (polishingEntry h s).seq h.other = s.seq h.other ∧ (polishingEntry h s).sampler h.other = s.sampler h.other ∧
    (polishingEntry h s).comp h.other = s.comp h.other := by
  cases step : s.currentStep h with
  | none => rw [polishingEntry_of_no_step step]; exact ⟨rfl, rfl, rfl⟩
  | some st =>
    rw [polishingEntry_of_step step]
    simp [State.seq, State.sampler, State.comp, clearedHead, clearSweeps, commandAll_seqs]

theorem polishingEntry_slot_of_ne {h : Head} {f : Fn} (s : State) (others : ∀ x, f ≠ .head h x) :
    (polishingEntry h s).slots.get f = s.slots.get f := by
  cases step : s.currentStep h with
  | none => rw [polishingEntry_of_no_step step]
  | some st => 
    rw [polishingEntry_of_step step, State.setSeq_slots, clearedHead_slots]
    exact commandAll_slot_of_ne (basePressures st) s others

end Sys2Proof.Machine


/-! ## Grants and releases of the pad (R73 to R77) -/

namespace Sys2Proof.Machine

theorem queueEvent_mgmt_congr {s t : State} (mgmt : t.mgmt = s.mgmt) (base : t.base = s.base) (kind : EventKind)
    (head : Option Head) (data : List (BitVec 32)) :
    (queueEvent kind head data t).mgmt = (queueEvent kind head data s).mgmt := by
  simp only [queueEvent_mgmt, mgmt, base]

theorem currentStep_congr {s t : State} {h : Head} (seq : t.seq h = s.seq h) (steps : t.steps = s.steps) :
    t.currentStep h = s.currentStep h := by
  simp only [State.currentStep, seq, steps]

/-! A new grant (R73, R75). -/

/-- The state in which a new grant is recorded and PAD_GRANTED queued. -/
def grantRecorded (h : Head) (e : Nat) (s : State) : State :=
  queueEvent .padGranted (some h) [dv e, dv 1]
    (s.setArb { s.arb with service := some { entry := e, holders := Pair.set ⟨false, false⟩ h true, time := s.base.time } })

theorem startEntry_eq (h : Head) (e : Nat) (s : State) :
    startEntry h e s = conditionEntry e (writeDosing (entryDose (grantRecorded h e s) e 1) (grantRecorded h e s)) := rfl

theorem grantRecorded_moves (h : Head) (e : Nat) (s : State) : Moves s (grantRecorded h e s) :=
  Moves.trans (t := s.setArb { s.arb with
      service := some { entry := e, holders := Pair.set ⟨false, false⟩ h true, time := s.base.time } })
    (setArb_moves rfl) (queueEvent_moves _ _ _ _)

theorem grantRecorded_writes (h : Head) (e : Nat) (s : State) :
    ∃ m, grantRecorded h e s = { s with
      arb := { s.arb with service := some { entry := e, holders := Pair.set ⟨false, false⟩ h true, time := s.base.time } }
      mgmt := m } := by
  refine ⟨(grantRecorded h e s).mgmt, ?_⟩
  unfold grantRecorded queueEvent
  split <;> rfl

section Grant

variable (h : Head) (e : Nat) (s : State)

theorem grantRecorded_entryDose (n : Nat) : entryDose (grantRecorded h e s) e n = entryDose s e n :=
  have moved := grantRecorded_moves h e s
  entryDose_congr moved.entries moved.blends moved.lim e n

theorem startEntry_arb : (startEntry h e s).arb = { s.arb with
    service := some { entry := e, holders := Pair.set ⟨false, false⟩ h true, time := s.base.time } } := by
  rw [startEntry_eq, conditionEntry_arb, writeDosing_arb]
  obtain ⟨m, wrote⟩ := grantRecorded_writes h e s
  rw [wrote]

@[simp] theorem startEntry_samplers : (startEntry h e s).samplers = s.samplers := by
  rw [startEntry_eq, conditionEntry_samplers, writeDosing_samplers]
  obtain ⟨m, wrote⟩ := grantRecorded_writes h e s
  rw [wrote]

@[simp] theorem startEntry_comps : (startEntry h e s).comps = s.comps := by
  rw [startEntry_eq, conditionEntry_comps, writeDosing_comps]
  obtain ⟨m, wrote⟩ := grantRecorded_writes h e s
  rw [wrote]

@[simp] theorem startEntry_store : (startEntry h e s).store = s.store := by
  rw [startEntry_eq, conditionEntry_store, writeDosing_store]
  obtain ⟨m, wrote⟩ := grantRecorded_writes h e s
  rw [wrote]

theorem startEntry_mgmt : (startEntry h e s).mgmt = (queueEvent .padGranted (some h) [dv e, dv 1] s).mgmt := by
  rw [startEntry_eq, conditionEntry_mgmt, writeDosing_mgmt]
  unfold grantRecorded
  apply queueEvent_mgmt_congr <;> rfl

theorem startEntry_slot_of_not_mem {f : Fn} (dosing : f ∉ dosingFns) (conditioning : f ∉ conditioningFns) :
    (startEntry h e s).slots.get f = s.slots.get f := by
  rw [startEntry_eq, conditionEntry_slot_of_not_mem e _ conditioning, writeDosing_slot_of_not_mem _ _ dosing]
  obtain ⟨m, wrote⟩ := grantRecorded_writes h e s
  rw [wrote]

end Grant

/-- The dosing setpoints of a grant in ACTIVE mode (R75, R82). -/
theorem startEntry_dosing (h : Head) (e : Nat) {s : State} (active : s.active = true) :
    (startEntry h e s).dose = { s.dose with current := some (entryDose s e 1) } ∧
    slotValue (startEntry h e s) .dose1 = some (entryDose s e 1).dose1 ∧
    slotValue (startEntry h e s) .dose2 = some (entryDose s e 1).dose2 ∧
    slotValue (startEntry h e s) .dose3 = some (entryDose s e 1).dose3 ∧
    slotValue (startEntry h e s) .rinse = some (entryDose s e 1).rinse := by
  have active : (grantRecorded h e s).active = true := (grantRecorded_moves h e s).active.trans active
  have dose : (grantRecorded h e s).dose = s.dose := by
    obtain ⟨m, wrote⟩ := grantRecorded_writes h e s
    rw [wrote]
  have kept {f : Fn} (other : f ∉ conditioningFns) : slotValue (startEntry h e s) f =
      slotValue (writeDosing (entryDose s e 1) (grantRecorded h e s)) f := by
    rw [startEntry_eq, grantRecorded_entryDose]
    exact slotValue_congr (conditionEntry_slot_of_not_mem e _ other)
  rw [kept (by decide), kept (by decide), kept (by decide), kept (by decide), startEntry_eq, grantRecorded_entryDose,
    conditionEntry_dose, writeDosing_dose active, dose]
  exact ⟨rfl, writeDosing_values active⟩

/-- The state in which the conditioner takes its part of a grant: its own block and the tables are as they were. -/
theorem dosedGrant (h : Head) (e : Nat) (s : State) :
    ∃ t, startEntry h e s = conditionEntry e t ∧ t.cdr = s.cdr ∧ t.arb.table = s.arb.table ∧ t.lim = s.lim ∧
      t.base = s.base ∧ t.active = s.active := by
  have moved := (grantRecorded_moves h e s).trans (writeDosing_moves (entryDose (grantRecorded h e s) e 1) _)
  refine ⟨_, startEntry_eq h e s, ?_, moved.entries, moved.lim, moved.base, moved.active⟩
  rw [writeDosing_cdr]
  obtain ⟨m, wrote⟩ := grantRecorded_writes h e s
  rw [wrote]

/-- A grant of an entry without a conditioning program (R75, step 3). -/
theorem startEntry_of_no_program (h : Head) {e : Nat} {s : State}
    (none : (tableGet s.arb.table e).bind PadService.program = none) :
    (startEntry h e s).cdr = s.cdr ∧
    (s.active = true → slotValue (startEntry h e s) .force = some 0 ∧ slotValue (startEntry h e s) .disk = some 0 ∧
      slotValue (startEntry h e s) .arm = some s.lim.park) := by
  obtain ⟨t, is, cdr, table, lim, -, active⟩ := dosedGrant h e s
  rw [is, conditionEntry_of_no_program (table ▸ none), writeSlots_cdr, cdr, lim]
  exact ⟨rfl, fun on => writeSlots_conditioning (active.trans on)⟩

/-- A grant of an entry with a conditioning program (R89, R90). -/
theorem startEntry_of_program (h : Head) {e k : Nat} {q : CondProgram} {seg : Segment} {s : State}
    (some : (tableGet s.arb.table e).bind PadService.program = some k) (loaded : tableGet s.cdr.programs k = .some q)
    (first : q.segments.head? = .some seg) :
    (startEntry h e s).cdr = { s.cdr with run := .some (startedRun s k q seg) } ∧
    (s.active = true → slotValue (startEntry h e s) .force = .some (min q.force s.lim.forceMax) ∧
      slotValue (startEntry h e s) .disk = .some (min q.speed s.lim.diskMax) ∧
      slotValue (startEntry h e s) .arm = .some (clampNat s.lim.armMin s.lim.armMax seg.position)) := by
  obtain ⟨t, is, cdr, table, lim, base, active⟩ := dosedGrant h e s
  have loaded : tableGet t.cdr.programs k = .some q := by rw [cdr, loaded]
  rw [is, conditionEntry_of_program (table ▸ some), startProgram_cdr loaded first]
  refine ⟨by simp only [startedRun, cdr, lim, base], fun on => ?_⟩
  rw [← lim]
  exact startProgram_values (active.trans on) loaded first

/-! A grant reaches a waiting head (R10). -/

theorem grantWaiting_of_waiting {h : Head} {s : State} (waits : (s.seq h).state = .waitPad) :
    grantWaiting h s = polishingEntry h s := if_pos waits

theorem grantWaiting_of_not_waiting {h : Head} {s : State} (still : (s.seq h).state ≠ .waitPad) : grantWaiting h s = s :=
  if_neg still

section Waiting

variable (h : Head) (s : State)

theorem grantWaiting_field {α : Type} (f : State → α) (polishing : f (polishingEntry h s) = f s) :
    f (grantWaiting h s) = f s := by
  unfold grantWaiting
  split
  · exact polishing
  · rfl

@[simp] theorem grantWaiting_arb : (grantWaiting h s).arb = s.arb := grantWaiting_field h s _ (polishingEntry_arb h s)
@[simp] theorem grantWaiting_dose : (grantWaiting h s).dose = s.dose := grantWaiting_field h s _ (polishingEntry_dose h s)
@[simp] theorem grantWaiting_cdr : (grantWaiting h s).cdr = s.cdr := grantWaiting_field h s _ (polishingEntry_cdr h s)
@[simp] theorem grantWaiting_mgmt : (grantWaiting h s).mgmt = s.mgmt := grantWaiting_field h s _ (polishingEntry_mgmt h s)
@[simp] theorem grantWaiting_store : (grantWaiting h s).store = s.store :=
  grantWaiting_field h s _ (polishingEntry_store h s)

theorem grantWaiting_other :
    (grantWaiting h s).seq h.other = s.seq h.other ∧ (grantWaiting h s).sampler h.other = s.sampler h.other ∧
    (grantWaiting h s).comp h.other = s.comp h.other := by
  unfold grantWaiting
  split
  · exact polishingEntry_other h s
  · exact ⟨rfl, rfl, rfl⟩

theorem grantWaiting_slot_of_ne {f : Fn} (others : ∀ x, f ≠ .head h x) :
    (grantWaiting h s).slots.get f = s.slots.get f :=
  grantWaiting_field h s (fun t => t.slots.get f) (polishingEntry_slot_of_ne s others)

end Waiting

/-! Idle and hold values (R77, R78, R80). -/

/-- Dosing and parked conditioner: the shape of the idle values and of the hold values. -/
theorem parked_only (d : Dose) (s : State) :
    { writeSlots [(.force, 0), (.disk, 0), (.arm, s.lim.park)] (writeDosing d s) with dose := s.dose, slots := s.slots } = s := by
  obtain ⟨x, wrote⟩ := writeSlots_writes [(.force, 0), (.disk, 0), (.arm, s.lim.park)] (writeDosing d s)
  rw [wrote]
  exact writeDosing_only d s

theorem writeIdleValues_eq (s : State) :
    writeIdleValues s = writeSlots [(.force, 0), (.disk, 0), (.arm, s.lim.park)] (writeDosing noFlow s) := by
  rw [writeIdleValues, writeDosing_lim]

theorem writeHoldValues_eq (s : State) :
    writeHoldValues s = writeSlots [(.force, 0), (.disk, 0), (.arm, s.lim.park)]
      (writeDosing { dose1 := 0, dose2 := 0, dose3 := 0, rinse := s.lim.holdRinse } s) := by
  rw [writeHoldValues, writeDosing_lim]

theorem writeIdleValues_only (s : State) : { writeIdleValues s with dose := s.dose, slots := s.slots } = s := by
  rw [writeIdleValues_eq]
  exact parked_only noFlow s

theorem writeHoldValues_only (s : State) : { writeHoldValues s with dose := s.dose, slots := s.slots } = s := by
  rw [writeHoldValues_eq]
  exact parked_only _ s

theorem writeIdleValues_slot_of_head (s : State) (k : Head) (a : Area) :
    (writeIdleValues s).slots.get (.head k a) = s.slots.get (.head k a) := by
  rw [writeIdleValues_eq, writeSlots_get_of_not_mem _ (by simp), writeDosing_slot_of_not_mem _ _ (by simp [dosingFns])]

/-- The idle values in ACTIVE mode (R77). -/
theorem writeIdleValues_values {s : State} (active : s.active = true) :
    (writeIdleValues s).dose = { s.dose with current := some noFlow } ∧
    (∀ f ∈ [Fn.dose1, .dose2, .dose3, .rinse, .force, .disk], slotValue (writeIdleValues s) f = some 0) ∧
    slotValue (writeIdleValues s) .arm = some s.lim.park := by
  have on : (writeDosing noFlow s).active = true := (writeDosing_active noFlow s).trans active
  obtain ⟨dose1, dose2, dose3, rinse⟩ := writeDosing_values (d := noFlow) active
  obtain ⟨force, disk, arm⟩ := writeSlots_conditioning (a := 0) (b := 0) (c := s.lim.park) on
  have kept {f : Fn} (other : ∀ w ∈ [(Fn.force, 0), (.disk, 0), (.arm, s.lim.park)], f ≠ w.1) :
      slotValue (writeSlots [(.force, 0), (.disk, 0), (.arm, s.lim.park)] (writeDosing noFlow s)) f =
        slotValue (writeDosing noFlow s) f := slotValue_congr (writeSlots_get_of_not_mem _ other)
  rw [writeIdleValues_eq]
  refine ⟨by rw [writeSlots_dose, writeDosing_dose active], fun f mem => ?_, arm⟩
  simp only [List.mem_cons, List.not_mem_nil, or_false] at mem
  rcases mem with rfl | rfl | rfl | rfl | rfl | rfl
  · exact (kept (by simp)).trans dose1
  · exact (kept (by simp)).trans dose2
  · exact (kept (by simp)).trans dose3
  · exact (kept (by simp)).trans rinse
  · exact force
  · exact disk

/-! The release of the pad (R74). -/

theorem releasePad_of_not_holding {h : Head} {s : State}
    (none : ∀ g, s.arb.service = some g → g.holders.get h = false) : releasePad h s = s := by
  unfold releasePad
  split
  · rfl
  · rename_i g granted
    rw [if_neg (by simp [none g granted])]

theorem holders_set_false (p : Pair Bool) (h : Head) :
    ((p.set h false).a || (p.set h false).b) = p.get h.other := by cases h <;> simp [Pair.set, Pair.get, Head.other]

theorem holderCount_set_false {p : Pair Bool} {h : Head} (other : p.get h.other = true) :
    holderCount (p.set h false) = 1 := by
  cases h <;> simp_all [Pair.set, Pair.get, Head.other, holderCount]

section Release

variable {h : Head} {s : State} {g : Grant} (granted : s.arb.service = some g) (holds : g.holders.get h = true)

include granted holds

theorem releasePad_of_other (other : g.holders.get h.other = true) :
    releasePad h s = doseEntry g.entry 1
      (s.setArb { s.arb with service := some { g with holders := g.holders.set h false } }) := by
  simp only [releasePad, granted, holds, if_true, holders_set_false, other, holderCount_set_false other]

theorem releasePad_of_last (alone : g.holders.get h.other = false) (nobody : s.arb.waiting = []) :
    releasePad h s = writeIdleValues (stopProgram (s.setArb { s.arb with service := none })) := by
  simp only [releasePad, granted, holds, if_true, holders_set_false, alone, nobody, Bool.false_eq_true, if_false]

theorem releasePad_of_waiting {w : Head} {e : Nat} {rest : List (Head × Nat)} (alone : g.holders.get h.other = false)
    (waits : s.arb.waiting = (w, e) :: rest) :
    releasePad h s = grantWaiting w (startEntry w e (stopProgram (s.setArb { s.arb with service := none, waiting := rest }))) := by
  simp only [releasePad, granted, holds, if_true, holders_set_false, alone, waits, Bool.false_eq_true, if_false]

end Release

@[simp] theorem writeIdleValues_store (s : State) : (writeIdleValues s).store = s.store := by
  have e := congrArg State.store (writeIdleValues_only s); exact e

@[simp] theorem doseEntry_store (e n : Nat) (s : State) : (doseEntry e n s).store = s.store := writeDosing_store _ s

@[simp] theorem releasePad_store (h : Head) (s : State) : (releasePad h s).store = s.store := by
  unfold releasePad
  split
  · rfl
  · split
    · dsimp only
      split
      · exact doseEntry_store ..
      · split
        · exact (grantWaiting_store ..).trans (startEntry_store ..)
        · exact writeIdleValues_store _
    · rfl

end Sys2Proof.Machine


/-! ## The end of a step and the abort of a head (R9, R19 to R21, R74) -/

namespace Sys2Proof.Machine

/-! Operations on pad and slots pass over a write of a sequencer that they do not read. -/

section Passing

variable (s : State) (h : Head) (q : Sequencer)

theorem queueEvent_setSeq (kind : EventKind) (head : Option Head) (data : List (BitVec 32)) :
    queueEvent kind head data (s.setSeq h q) = (queueEvent kind head data s).setSeq h q := by
  unfold queueEvent
  by_cases room : s.mgmt.events.length < Config.eventCapacity <;>
    simp only [State.setSeq_mgmt, State.setSeq_base, room, if_true, if_false] <;> rfl

theorem writeSlots_setSeq (ws : List (Fn × Nat)) : writeSlots ws (s.setSeq h q) = (writeSlots ws s).setSeq h q := by
  induction ws generalizing s with
  | nil => rfl
  | cons w ws ih =>
    have first : writeSlot w.1 w.2 (s.setSeq h q) = (writeSlot w.1 w.2 s).setSeq h q := by
      unfold writeSlot
      rw [show (s.setSeq h q).active = s.active from rfl]
      split <;> rfl
    exact (congrArg (writeSlots ws) first).trans (ih _)

theorem writeDosing_setSeq (d : Dose) : writeDosing d (s.setSeq h q) = (writeDosing d s).setSeq h q := by
  unfold writeDosing
  rw [show (s.setSeq h q).active = s.active from rfl]
  split
  · exact writeSlots_setSeq { s with dose := { s.dose with current := some d } } h q _
  · rfl

theorem doseEntry_setSeq (e n : Nat) : doseEntry e n (s.setSeq h q) = (doseEntry e n s).setSeq h q :=
  writeDosing_setSeq s h q (entryDose s e n)

theorem enterTravel_setSeq (run : CondRun) (n : Nat) (seg : Segment) :
    enterTravel run n seg (s.setSeq h q) = (enterTravel run n seg s).setSeq h q := by
  have wrote := writeSlots_setSeq s h q [(.arm, clampNat s.lim.armMin s.lim.armMax seg.position)]
  exact congrArg (fun t : State => t.setRun (some { run with
    segment := n, target := clampNat s.lim.armMin s.lim.armMax seg.position
    phase := .travel (some (deadlineAfter t.base.time t.lim.arrivalTimeout)) })) wrote

theorem startProgram_setSeq (k : Nat) : startProgram k (s.setSeq h q) = (startProgram k s).setSeq h q := by
  simp only [startProgram, State.setSeq_cdr]
  split
  · rfl
  · rename_i p _
    split
    · rfl
    · have wrote := writeSlots_setSeq s h q [(.force, min p.force s.lim.forceMax), (.disk, min p.speed s.lim.diskMax)]
      exact (congrArg (enterTravel _ 1 _) wrote).trans (enterTravel_setSeq _ h q _ 1 _)

theorem conditionEntry_setSeq (e : Nat) : conditionEntry e (s.setSeq h q) = (conditionEntry e s).setSeq h q := by
  simp only [conditionEntry, State.setSeq_arb]
  split
  · exact startProgram_setSeq s h q _
  · exact writeSlots_setSeq s h q _

theorem startEntry_setSeq (w : Head) (e : Nat) : startEntry w e (s.setSeq h q) = (startEntry w e s).setSeq h q := by
  have recorded : grantRecorded w e (s.setSeq h q) = (grantRecorded w e s).setSeq h q :=
    queueEvent_setSeq (s.setArb { s.arb with
      service := some { entry := e, holders := Pair.set ⟨false, false⟩ w true, time := s.base.time } }) h q _ _ _
  rw [startEntry_eq, startEntry_eq, recorded]
  exact (congrArg (conditionEntry e) (writeDosing_setSeq _ h q _)).trans (conditionEntry_setSeq _ h q e)

theorem writeIdleValues_setSeq : writeIdleValues (s.setSeq h q) = (writeIdleValues s).setSeq h q := by
  rw [writeIdleValues_eq, writeIdleValues_eq, writeDosing_setSeq]
  exact writeSlots_setSeq _ h q _

theorem setSeq_comm {w : Head} (apart : w ≠ h) (p : Sequencer) :
    (s.setSeq h q).setSeq w p = (s.setSeq w p).setSeq h q := by
  have same : (s.seqs.set h q).set w p = (s.seqs.set w p).set h q := by
    cases h with
    | a => cases w with
      | a => exact absurd rfl apart
      | b => rfl
    | b => cases w with
      | a => rfl
      | b => exact absurd rfl apart
  unfold State.setSeq
  rw [same]

theorem commandAll_setSeq {w : Head} (apart : w ≠ h) (p : PerArea Nat) :
    commandAll w p (s.setSeq h q) = (commandAll w p s).setSeq h q := by
  unfold commandAll
  rw [State.seq_setSeq_of_ne _ _ apart, setSeq_comm s h q apart, writeSlots_setSeq]

theorem polishingEntry_setSeq {w : Head} (apart : w ≠ h) :
    polishingEntry w (s.setSeq h q) = (polishingEntry w s).setSeq h q := by
  have current : (s.setSeq h q).currentStep w = s.currentStep w :=
    currentStep_congr (State.seq_setSeq_of_ne _ _ apart) rfl
  cases step : s.currentStep w with
  | none => rw [polishingEntry_of_no_step step, polishingEntry_of_no_step (current.trans step)]
  | some st =>
    rw [polishingEntry_of_step step, polishingEntry_of_step (current.trans step), commandAll_setSeq s h q apart,
      State.seq_setSeq_of_ne _ _ apart, show ∀ t : State, clearedHead w (t.setSeq h q) = (clearedHead w t).setSeq h q from
        fun _ => rfl, setSeq_comm _ h q apart]
    rfl

end Passing

/-- The pad that a release gives up does not come back to this head: it is not the first that waits in WAIT_PAD. -/
def NotNext (s : State) (h : Head) : Prop := (s.seq h).state = .waitPad → ∀ e rest, s.arb.waiting ≠ (h, e) :: rest

theorem NotGranted.notNext {s : State} {h : Head} (apart : NotGranted s h) : NotNext s h :=
  fun waits e rest first => apart waits (h, e) (by rw [first]; exact List.mem_cons_self) rfl

theorem NotNext.of_state {s : State} {h : Head} (moves : (s.seq h).state ≠ .waitPad) : NotNext s h :=
  fun waits => absurd waits moves

theorem grantWaiting_setSeq {s : State} {w h : Head} {q : Sequencer} (state : q.state = (s.seq h).state)
    (apart : (s.seq h).state = .waitPad → w ≠ h) : grantWaiting w (s.setSeq h q) = (grantWaiting w s).setSeq h q := by
  by_cases same : w = h
  · subst same
    have still : (s.seq w).state ≠ .waitPad := fun waits => apart waits rfl
    rw [grantWaiting_of_not_waiting still, grantWaiting_of_not_waiting (by rw [State.seq_setSeq_same, state]; exact still)]
  · unfold grantWaiting
    rw [State.seq_setSeq_of_ne _ _ same]
    split
    · exact polishingEntry_setSeq s h q same
    · rfl

/-- A release passes over a write of the sequencer of the head that gives the pad up (R74). -/
theorem releasePad_setSeq {s : State} {h : Head} {q : Sequencer} (k : Head) (state : q.state = (s.seq h).state)
    (apart : NotNext s h) : releasePad k (s.setSeq h q) = (releasePad k s).setSeq h q := by
  have arb (a : Arbiter) : (s.setSeq h q).setArb a = (s.setArb a).setSeq h q := rfl
  have stop (t : State) : stopProgram (t.setSeq h q) = (stopProgram t).setSeq h q := rfl
  unfold releasePad
  simp only [State.setSeq_arb, arb, stop, doseEntry_setSeq, startEntry_setSeq, writeIdleValues_setSeq]
  split
  · rfl
  · split
    · split
      · rfl
      · split
        · rename_i w e rest waiting
          have found : (startEntry w e (stopProgram (s.setArb { s.arb with service := none, waiting := rest }))).seq h = s.seq h :=
            State.seq_of_seqs (startEntry_seqs _ _ _) h
          refine grantWaiting_setSeq (by rw [found, state]) fun waits => ?_
          rintro rfl
          exact apart (found ▸ waits) e rest waiting
        · rfl
    · rfl

end Sys2Proof.Machine


/-! ## The abort of a head and the release of the pad (R21, R26, R74) -/

namespace Sys2Proof.Machine

@[simp] theorem State.sampler_setSeq (s : State) (h k : Head) (q : Sequencer) : (s.setSeq h q).sampler k = s.sampler k := rfl

theorem Moves.keepsPorts {s t : State} (moved : Moves s t) : keepsPorts s t := ⟨moved.portU, moved.portD, moved.fwd⟩

theorem Moves.keepsBase {s t : State} (moved : Moves s t) : keepsBase s t := ⟨moved.base, moved.pending, moved.choice⟩

/-- The result of a step that is closed now, with the polishing time of the interval that is still open (R26). -/
structure Closes (s : State) (h : Head) (cause : EndCause) (c : InProgress) (x : StepResult) : Prop where
  step     : x.step = c.step
  cause    : x.cause = cause
  duration : x.duration = polishingTime s.base.time c
  sweeps   : x.sweeps = c.sweeps
  cleared  : x.cleared = (s.seq h).cleared

/-- The sequencer of a head whose step is closed with a result: timers stopped, no part in progress (R19, R21). -/
def closedSeq (q : Sequencer) (x : StepResult) : Sequencer :=
  { q with timer := .stopped, gap := none, current := none, results := q.results ++ [x] }

/-- The abort of a head with a part in progress (R21). -/
theorem abortHead_of_current {h : Head} {s : State} {c : InProgress} (current : (s.seq h).current = some c) :
    ∃ x, Closes s h .abort c x ∧ abortHead h s =
      (queueEvent .headAborted (some h) [dv ((s.seq h).position.getD 0), dv c.step, durationWord x.duration]
        (writeHoldPressures h (leavePad h s))).setSeq h
          { closedSeq (s.seq h) x with
            state := .aborted, commanded := PerArea.tabulate fun a => some (s.lim.areas.get a).hold } := by
  have moved := leavePad_moves h s
  have held : (writeHoldPressures h (leavePad h s)).seq h =
      { s.seq h with commanded := PerArea.tabulate fun a => some (s.lim.areas.get a).hold } := by
    simp [writeHoldPressures, commandAll_seq, leavePad_seq_same, moved.lim, holdPressures]
  have base : (writeHoldPressures h (leavePad h s)).base = s.base := (commandAll_base ..).trans moved.base
  refine ⟨{ step := c.step, cause := .abort, duration := polishingTime s.base.time c, sweeps := c.sweeps
            cleared := (s.seq h).cleared
            means := finalMeans ((writeHoldPressures h (leavePad h s)).sampler h)
              { c with time := polishingTime s.base.time c, interval := none } }, ⟨rfl, rfl, rfl, rfl, rfl⟩, ?_⟩
  unfold abortHead
  generalize writeHoldPressures h (leavePad h s) = t at held base ⊢
  simp [held, base, closeInterval, stopTimers, current, queueEvent_setSeq, stepResult, closedSeq]

theorem leavePad_eq (h : Head) (s : State) :
    leavePad h s = if (s.seq h).state = .waitPad then
      { s with arb := { s.arb with waiting := s.arb.waiting.filter (fun w => decide (w.1 ≠ h)) } } else releasePad h s := rfl

theorem leavePad_served (r : Request) (h : Head) (s : State) :
    leavePad h (served r s) = if (s.seq h).state = .waitPad then
      { served r s with arb := { s.arb with waiting := s.arb.waiting.filter (fun w => decide (w.1 ≠ h)) } }
      else releasePad h (served r s) := by
  rw [leavePad_eq, served_seq, served_arb]

@[simp] theorem leavePad_store (h : Head) (s : State) : (leavePad h s).store = s.store := by
  unfold leavePad
  split
  · rfl
  · exact releasePad_store h s

theorem working_iff (x : HeadState) :
    x.working = true ↔ x ∈ [HeadState.waitPad, .polishing, .paused, .hold] := by cases x <;> decide

theorem not_working_iff (x : HeadState) :
    x.working = false ↔ x ∈ [HeadState.empty, .ready, .done, .aborted] := by cases x <;> decide

/-- ABORT_HEAD of a working head, and of one that does not work (R21). -/
theorem abortHead_request {r : Request} {s : State} {h : Head} (adm : Admitted r s) (names : namesHead r h) :
    ((s.seq h).state ∈ [HeadState.waitPad, .polishing, .paused, .hold] →
      exec (.abortHead r) s = completes r .done [] (abortHead h (served r s))) ∧
    ((s.seq h).state ∈ [HeadState.empty, .ready, .done, .aborted] →
      exec (.abortHead r) s = completes r .state [] (served r s)) := by
  refine ⟨fun works => ?_, fun rests => ?_⟩
  · refine headRequest_done (effect := abortHead) 18 adm names ((working_iff _).mpr works) ?_
    exact (abortHead_moves h _).resetTaken.trans (served_resetTaken r s)
  · exact headRequest_state 18 abortHead adm names ((not_working_iff _).mpr rests)

theorem releasePad_other {h : Head} {s : State} {g : Grant} (granted : s.arb.service = some g)
    (holds : g.holders.get h = true) (other : g.holders.get h.other = true) :
    (releasePad h s).arb = { s.arb with service := some { g with holders := g.holders.set h false } } ∧
    (s.mgmt.mode = .active → (releasePad h s).dose.current = some (entryDose s g.entry 1) ∧
      slotValue (releasePad h s) .dose1 = some (entryDose s g.entry 1).dose1 ∧
      slotValue (releasePad h s) .dose2 = some (entryDose s g.entry 1).dose2 ∧
      slotValue (releasePad h s) .dose3 = some (entryDose s g.entry 1).dose3 ∧
      slotValue (releasePad h s) .rinse = some (entryDose s g.entry 1).rinse) ∧
    (∀ f, f ∉ [Fn.dose1, .dose2, .dose3, .rinse] → (releasePad h s).slots.get f = s.slots.get f) ∧
    { releasePad h s with arb := s.arb, dose := s.dose, slots := s.slots } = s := by
  rw [releasePad_of_other granted holds other]
  have doses : entryDose (s.setArb { s.arb with service := some { g with holders := g.holders.set h false } }) g.entry 1 =
    entryDose s g.entry 1 := rfl
  unfold doseEntry
  rw [doses]
  refine ⟨writeDosing_arb .., fun active => ?_, fun f others => writeDosing_slot_of_not_mem _ _ others, ?_⟩
  · have on := active_eq_true (s := s.setArb { s.arb with service := some { g with holders := g.holders.set h false } }) active
    rw [writeDosing_dose on]
    exact ⟨rfl, writeDosing_values on⟩
  · have e := congrArg (fun t : State => { t with arb := s.arb }) (writeDosing_only (entryDose s g.entry 1)
      (s.setArb { s.arb with service := some { g with holders := g.holders.set h false } }))
    exact e

theorem releasePad_last {h : Head} {s : State} {g : Grant} (granted : s.arb.service = some g)
    (holds : g.holders.get h = true) (alone : g.holders.get h.other = false) (nobody : s.arb.waiting = []) :
    (releasePad h s).arb = { s.arb with service := none } ∧ (releasePad h s).cdr = { s.cdr with run := none } ∧
    (s.mgmt.mode = .active →
      (releasePad h s).dose.current = some { dose1 := 0, dose2 := 0, dose3 := 0, rinse := 0 } ∧
      (∀ f ∈ [Fn.dose1, .dose2, .dose3, .rinse, .force, .disk], slotValue (releasePad h s) f = some 0) ∧
      slotValue (releasePad h s) .arm = some s.lim.park) ∧
    (∀ k a, (releasePad h s).slots.get (.head k a) = s.slots.get (.head k a)) ∧
    { releasePad h s with arb := s.arb, dose := s.dose, cdr := s.cdr, slots := s.slots } = s := by
  rw [releasePad_of_last granted holds alone nobody]
  have only := writeIdleValues_only (stopProgram (s.setArb { s.arb with service := none }))
  refine ⟨?_, ?_, fun active => ?_, fun k a => writeIdleValues_slot_of_head _ k a, ?_⟩
  · have e := congrArg State.arb only; exact e
  · have e := congrArg State.cdr only; exact e
  · have on := active_eq_true (s := stopProgram (s.setArb { s.arb with service := none })) active
    obtain ⟨dose, zeros, arm⟩ := writeIdleValues_values on
    exact ⟨by rw [dose]; rfl, zeros, arm⟩
  · have e := congrArg (fun t : State => { t with arb := s.arb, cdr := s.cdr }) only; exact e

/-- The state that a release with a waiting head leaves, and what the waiting head finds (R74, R75). -/
theorem releasePad_waiting {h w : Head} {s : State} {g : Grant} {e : Nat} {rest : List (Head × Nat)}
    (granted : s.arb.service = some g) (holds : g.holders.get h = true) (alone : g.holders.get h.other = false)
    (waits : s.arb.waiting = (w, e) :: rest) :
    ∃ u, releasePad h s = grantWaiting w (startEntry w e u) ∧
      u = { s with arb := { s.arb with service := none, waiting := rest }, cdr := { s.cdr with run := none } } :=
  ⟨_, releasePad_of_waiting granted holds alone waits, rfl⟩

/-- A head is left by its own transition: besides its sequencer, its slots, the events and the store nothing moved. -/
structure LeftBy (h : Head) (u t : State) : Prop where
  arb      : t.arb = u.arb
  dose     : t.dose = u.dose
  cdr      : t.cdr = u.cdr
  other    : t.seq h.other = u.seq h.other
  samplers : t.samplers = u.samplers
  comps    : t.comps = u.comps
  slots    : ∀ f, (∀ a, f ≠ .head h a) → t.slots.get f = u.slots.get f

/-- Hold pressures, then events and a write of the head's sequencer: the shape of DONE and of an abort (R20, R21). -/
theorem leftBy_holdPressures (h : Head) (q : Sequencer) (kind : EventKind) (head : Option Head) (data : List (BitVec 32))
    (u : State) : LeftBy h u ((queueEvent kind head data (writeHoldPressures h u)).setSeq h q) where
  arb := by simp [writeHoldPressures]
  dose := by simp [writeHoldPressures]
  cdr := by simp [writeHoldPressures]
  other := by
    rw [State.seq_setSeq_other, queueEvent_seq]
    exact commandAll_seq_of_ne _ _ h.other_ne
  samplers := by simp [writeHoldPressures]
  comps := by simp [writeHoldPressures]
  slots f others := by
    rw [State.setSeq_slots, queueEvent_slots]
    exact commandAll_slot_of_ne _ _ others

theorem holdPressures_value {h : Head} {u : State} (active : u.mgmt.mode = .active) (a : Area) :
    slotValue (writeHoldPressures h u) (.head h a) = some (u.lim.areas.get a).hold := by
  have written := commandAll_value (h := h) (holdPressures u.lim) (active_eq_true active) a
  rw [holdPressures, PerArea.get_tabulate] at written
  exact written

theorem holdPressures_event_mgmt (h : Head) (kind : EventKind) (head : Option Head) (data : List (BitVec 32)) (u : State) :
    (queueEvent kind head data (writeHoldPressures h u)).mgmt = (queueEvent kind head data u).mgmt :=
  queueEvent_mgmt_congr (commandAll_mgmt ..) (commandAll_base ..) _ _ _

/-- Settles O36: the abort leaves the pad first, and a release goes by who holds and who waits. -/
theorem abortHeadEndsTheProgram : Obligations.AbortHeadEndsTheProgram := by
  refine ⟨fun r s h adm names => ⟨fun c works current => ?_, (abortHead_request adm names).2⟩, fun s h => ⟨?_, ?_⟩⟩
  · have current : ((served r s).seq h).current = some c := by rw [served_seq, current]
    obtain ⟨x, closes, aborted⟩ := abortHead_of_current current
    have moved := abortHead_moves h (served r s)
    have left := leavePad_moves h (served r s)
    have away := aborted ▸ leftBy_holdPressures h _ .headAborted (some h) _ (leavePad h (served r s))
    refine ⟨abortHead h (served r s), leavePad h (served r s), x, (abortHead_request adm names).1 works,
      leavePad_served r h s, ?_, closes.step, closes.cause, by simpa using closes.duration, closes.sweeps,
      by simpa using closes.cleared, ?_, away.arb, away.dose, away.cdr, away.other, away.samplers, away.comps,
      fun active a => ?_, away.slots, by simpa using moved.steps, ?_, by simpa [keepsPorts] using moved.keepsPorts,
      by simpa [keepsBase] using moved.keepsBase, by simpa using moved.fmap, moved.cu⟩
    · rw [aborted, State.seq_setSeq_same]
      simp [closedSeq]
    · rw [aborted, State.setSeq_mgmt, holdPressures_event_mgmt, served_seq]
      rfl
    · have on : (leavePad h (served r s)).mgmt.mode = .active := by rw [left.mode, served_mode, active]
      have held := holdPressures_value (h := h) on a
      rw [left.lim, served_lim] at held
      refine (slotValue_congr ?_).trans held
      rw [aborted, State.setSeq_slots, queueEvent_slots]
    · rw [aborted]
      simp [writeHoldPressures]
  · exact releasePad_of_not_holding
  · rintro g t granted holds rfl
    refine ⟨fun other => ?_, fun alone nobody => ?_, fun w e rest alone waits => ?_⟩
    · obtain ⟨arb, dosing, slots, only⟩ := releasePad_other granted holds other
      exact ⟨arb, dosing, slots, (releasePad_moves h s).blends, only⟩
    · obtain ⟨arb, cdr, idle, slots, only⟩ := releasePad_last granted holds alone nobody
      exact ⟨arb, cdr, idle, slots, (releasePad_moves h s).blends, only⟩
    · have moved := releasePad_moves h s
      obtain ⟨u, released, is⟩ := releasePad_waiting granted holds alone waits
      have seqs : (startEntry w e u).seqs = s.seqs := by rw [startEntry_seqs, is]
      have samplers : (startEntry w e u).samplers = s.samplers := by rw [startEntry_samplers, is]
      have comps : (startEntry w e u).comps = s.comps := by rw [startEntry_comps, is]
      have steps : (startEntry w e u).steps = s.steps := by rw [(startEntry_moves w e u).steps, is]
      have base : (startEntry w e u).base = s.base := by rw [(startEntry_moves w e u).base, is]
      have slot {f : Fn} (others : ∀ x, f ≠ .head w x) : slotValue (releasePad h s) f = slotValue (startEntry w e u) f :=
        slotValue_congr (by rw [released, grantWaiting_slot_of_ne w _ others])
      have other := grantWaiting_other w (startEntry w e u)
      rw [← released] at other
      refine ⟨?arb, ?mgmt, fun active => ?dosing, fun none => ?parked, fun k q seg some loaded first => ?program,
        fun st waiting step => ?polishing, fun still => ?still, other.1.trans (State.seq_of_seqs seqs _),
        other.2.1.trans (State.sampler_of_samplers samplers _), other.2.2.trans (by rw [State.comp, comps]; rfl),
        moved.blends, moved.steps, releasePad_store h s, moved.fmap, moved.cu, moved.keepsPorts, moved.keepsBase⟩
      case arb => rw [released, grantWaiting_arb, startEntry_arb, is]
      case mgmt =>
        rw [released, grantWaiting_mgmt, startEntry_mgmt, is]
        apply queueEvent_mgmt_congr <;> rfl
      case dosing =>
        have on : u.active = true := by rw [is]; exact active_eq_true active
        have doses : entryDose u e 1 = entryDose s e 1 := by rw [is]; rfl
        obtain ⟨dose, values⟩ := startEntry_dosing w e on
        rw [slot (by simp), slot (by simp), slot (by simp), slot (by simp), released, grantWaiting_dose, dose, ← doses]
        exact ⟨rfl, values⟩
      case parked =>
        obtain ⟨cdr, values⟩ := startEntry_of_no_program w (s := u) (e := e) (by rw [is]; exact none)
        rw [slot (by simp), slot (by simp), slot (by simp), released, grantWaiting_cdr, cdr]
        subst is
        exact ⟨rfl, fun active => values (active_eq_true active)⟩
      case program =>
        obtain ⟨cdr, values⟩ := startEntry_of_program w (s := u) (by rw [is]; exact some) (by rw [is]; exact loaded) first
        rw [slot (by simp), slot (by simp), slot (by simp), released, grantWaiting_cdr, cdr]
        subst is
        exact ⟨rfl, fun active => values (active_eq_true active)⟩
      case polishing =>
        have waiting : ((startEntry w e u).seq w).state = .waitPad := by rw [State.seq_of_seqs seqs, waiting]
        have step : (startEntry w e u).currentStep w = .some st := by
          rw [currentStep_congr (State.seq_of_seqs seqs w) steps, step]
        have polishes := polishingEntry_seq step
        rw [released, grantWaiting_of_waiting waiting, polishes]
        refine ⟨rfl, by rw [base], fun a => ?_, ?_, polishingEntry_comp step⟩
        · simp [basePressures]
        · rw [polishingEntry_sampler step, State.sampler_of_samplers samplers]
      case still =>
        have still : ((startEntry w e u).seq w).state ≠ .waitPad := by rw [State.seq_of_seqs seqs]; exact still
        rw [released, grantWaiting_of_not_waiting still]
        exact ⟨seqs, samplers, comps⟩

end Sys2Proof.Machine


/-! ## The end of a step and what follows it (R9, R11, R18 to R20, R73) -/

namespace Sys2Proof.Machine

/-- The close of a step with a part in progress: its result is appended and STEP_ENDED queued (R19, R26). -/
theorem closeStep_of_current {h : Head} {s : State} {c : InProgress} (cause : EndCause)
    (current : (s.seq h).current = some c) :
    ∃ x, Closes s h cause c x ∧ closeStep h cause s =
      (queueEvent .stepEnded (some h) [dv c.step, dv (causeCode cause), durationWord x.duration] s).setSeq h
        (closedSeq (s.seq h) x) := by
  refine ⟨{ step := c.step, cause, duration := polishingTime s.base.time c, sweeps := c.sweeps
            cleared := (s.seq h).cleared
            means := finalMeans (s.sampler h) { c with time := polishingTime s.base.time c, interval := none } },
    ⟨rfl, rfl, rfl, rfl, rfl⟩, ?_⟩
  simp [closeStep, closeInterval, stopTimers, current, queueEvent_setSeq, stepResult, closedSeq]

/-! DONE (R20). -/

/-- The wafer count rises and an internal WEAR write is requested (R20, R190). -/
theorem waferCounted_store (s : State) :
    (requestWearWrite (raiseWafers s)).store.live =
      { s.store.live with wafers := min (s.store.live.wafers + 1) 4294967295 } ∧
    (s.store.engine = none → (requestWearWrite (raiseWafers s)).store.engine =
        some { contents := .wear (requestWearWrite (raiseWafers s)).store.live, origin := .internal } ∧
      (requestWearWrite (raiseWafers s)).store.wearPending = false) ∧
    (∀ w, s.store.engine = some w → (requestWearWrite (raiseWafers s)).store.engine = some w ∧
      (requestWearWrite (raiseWafers s)).store.wearPending = true) ∧
    { (requestWearWrite (raiseWafers s)).store with
      live := s.store.live, engine := s.store.engine, wearPending := s.store.wearPending } = s.store := by
  have engine : (raiseWafers s).store.engine = s.store.engine := rfl
  unfold requestWearWrite
  rw [engine]
  cases programs : s.store.engine with
  | none =>
    refine ⟨rfl, fun _ => ⟨rfl, rfl⟩, ?_, ?_⟩
    · intro w is
      cases is
    · show { s.store with engine := none } = s.store
      rw [← programs]
  | some w =>
    refine ⟨rfl, ?_, ?_, ?_⟩
    · intro is
      cases is
    · rintro _ ⟨⟩
      exact ⟨programs, rfl⟩
    · show { s.store with engine := some w } = s.store
      rw [← programs]

theorem requestWearWrite_only (s : State) : { requestWearWrite s with store := s.store } = s := by
  unfold requestWearWrite
  split <;> rfl

theorem waferCounted_field {α : Type} (f : State → α) (unread : ∀ (t : State) (x : ParameterStore), f { t with store := x } = f t)
    (s : State) : f (requestWearWrite (raiseWafers s)) = f s :=
  ((unread _ _).symm.trans (congrArg f (requestWearWrite_only (raiseWafers s)))).trans (unread s _)

theorem commandAll_setSeq_same (h : Head) (p : PerArea Nat) (q : Sequencer) (s : State) :
    commandAll h p (s.setSeq h q) =
      (commandAll h p s).setSeq h { q with commanded := PerArea.tabulate fun x => some (p.get x) } := by
  simp [commandAll, writeSlots_setSeq]

/-- The entry to DONE of a head that has released the pad (R20). -/
theorem enterDone_of_released {h : Head} {s u : State} {q : Sequencer} (released : releasePad h s = u.setSeq h q) :
    enterDone h s = requestWearWrite (raiseWafers
      ((queueEvent .headDone (some h) [dv q.results.length, durationWord (totalDuration q.results)]
        (writeHoldPressures h u)).setSeq h
          { q with state := .done, current := none
                   commanded := PerArea.tabulate fun a => some (u.lim.areas.get a).hold })) := by
  have lim : (u.setSeq h q).lim = u.lim := rfl
  simp [enterDone, released, writeHoldPressures, commandAll_setSeq_same, lim, queueEvent_setSeq, holdPressures]

/-! SKIP_STEP (R18). -/

theorem inStep_iff (x : HeadState) : x.inStep = true ↔ x ∈ [HeadState.waitPad, .polishing, .paused] := by
  cases x <;> decide

theorem endStep_of_next {h : Head} {s : State} {p : List Nat} {n : Nat} (cause : EndCause)
    (program : (s.seq h).program = some p) (position : (s.seq h).position = some n) (next : n < p.length) :
    endStep h cause s = stepEntry h ((closeStep h cause s).setSeq h
      { (closeStep h cause s).seq h with position := some (n + 1) }) := by
  simp [endStep, program, position, next]

theorem endStep_of_last {h : Head} {s : State} {p : List Nat} (cause : EndCause)
    (program : (s.seq h).program = some p) (position : (s.seq h).position = some p.length) :
    endStep h cause s = enterDone h (closeStep h cause s) := by
  simp [endStep, program, position]

/-- What SKIP_STEP ends the step of: a head that waited has withdrawn (R18, R76). -/
def skipped (h : Head) (s : State) : State := if (s.seq h).state = .waitPad then withdraw h s else s

theorem skipped_served (r : Request) (h : Head) (s : State) :
    skipped h (served r s) = if (s.seq h).state = .waitPad then
      { served r s with arb := { s.arb with waiting := s.arb.waiting.filter (fun w => decide (w.1 ≠ h)) } }
      else served r s := by
  unfold skipped withdraw
  rw [served_seq, served_arb]
  rfl

theorem skipped_field {α : Type} (f : State → α) (unread : ∀ (t : State) (a : Arbiter), f { t with arb := a } = f t)
    (h : Head) (s : State) : f (skipped h s) = f s := by
  unfold skipped
  split
  · exact unread s _
  · rfl

theorem skipped_notGranted (h : Head) (s : State) : NotGranted (skipped h s) h := by
  unfold skipped
  split
  · exact NotGranted.withdraw s h
  · exact NotGranted.of_state ‹_›

theorem skipped_moves (h : Head) (s : State) : Moves s (skipped h s) := by
  unfold skipped
  split
  · exact withdraw_moves h s
  · exact Moves.refl s

/-- The end of the last step of a head that no release hands the pad to (R19, R20). -/
theorem endStep_done {h : Head} {s : State} {c : InProgress} {p : List Nat} (cause : EndCause)
    (program : (s.seq h).program = some p) (position : (s.seq h).position = some p.length)
    (current : (s.seq h).current = some c) (apart : NotGranted s h) :
    ∃ x u, Closes s h cause c x ∧
      u = releasePad h (queueEvent .stepEnded (some h) [dv c.step, dv (causeCode cause), durationWord x.duration] s) ∧
      endStep h cause s = requestWearWrite (raiseWafers
        ((queueEvent .headDone (some h) [dv ((s.seq h).results.length + 1),
            durationWord (((s.seq h).results.map StepResult.duration).sum + x.duration)]
          (writeHoldPressures h u)).setSeq h
            { closedSeq (s.seq h) x with
              state := .done, commanded := PerArea.tabulate fun a => some (s.lim.areas.get a).hold })) := by
  obtain ⟨x, closes, closed⟩ := closeStep_of_current cause current
  refine ⟨x, _, closes, rfl, ?_⟩
  rw [endStep_of_last cause program position, closed]
  have still : NotNext (queueEvent .stepEnded (some h) [dv c.step, dv (causeCode cause), durationWord x.duration] s) h := by
    intro waits e rest first
    rw [queueEvent_seq] at waits
    rw [queueEvent_arb] at first
    exact apart.notNext waits e rest first
  rw [enterDone_of_released (releasePad_setSeq h (by rw [queueEvent_seq]; rfl) still)]
  simp [closedSeq, totalDuration, (releasePad_moves h _).lim]

/-- Settles O35: the withdrawal, the close of the step and then DONE or the next entry. -/
theorem skipOfTheLastStepEndsTheProgram : Obligations.SkipOfTheLastStepEndsTheProgram := by
  intro r s h adm names
  have skips (inStep : (s.seq h).state ∈ [HeadState.waitPad, .polishing, .paused]) :
      exec (.skipStep r) s = completes r .done [] (endStep h .skip (skipped h (served r s))) :=
    headRequest_done (effect := skipStep) 17 adm names ((inStep_iff _).mpr inStep)
      ((skipStep_moves h _).resetTaken.trans (served_resetTaken r s))
  refine ⟨fun out => ?_, fun p n inStep _ _ _ => ?_, fun p c inStep program position current => ?_⟩
  · refine headRequest_state 17 skipStep adm names ?_
    rw [Bool.eq_false_iff]
    exact fun inStep => out ((inStep_iff _).mp inStep)
  · rw [← skipped_served]
    exact skips inStep
  · have seq : (skipped h (served r s)).seq h = s.seq h :=
      (skipped_field (fun t => t.seq h) (fun _ _ => rfl) h _).trans (served_seq r s h)
    obtain ⟨x, u, closes, is, ends⟩ := endStep_done (s := skipped h (served r s)) .skip (by rw [seq, program])
      (by rw [seq, position]) (by rw [seq, current]) (skipped_notGranted h _)
    have moved := (skipped_moves h (served r s)).trans (endStep_moves h .skip (skipped h (served r s)))
    have released := (queueEvent_moves .stepEnded (some h) [dv c.step, dv (causeCode .skip), durationWord x.duration]
      (skipped h (served r s))).trans (is ▸ releasePad_moves h _)
    have mode : u.mgmt.mode = s.mgmt.mode :=
      released.mode.trans ((skipped_field (fun t => t.mgmt.mode) (fun _ _ => rfl) h _).trans (served_mode r s))
    have lim : (skipped h (served r s)).lim = s.lim :=
      (skipped_field State.lim (fun _ _ => rfl) h _).trans (served_lim r s)
    have store : u.store = s.store := by
      rw [is, releasePad_store, queueEvent_store, skipped_field (fun t => t.store) (fun _ _ => rfl), served_store]
    rw [seq, lim] at ends
    generalize doneWith : (queueEvent .headDone (some h) [dv ((s.seq h).results.length + 1),
      durationWord (((s.seq h).results.map StepResult.duration).sum + x.duration)] (writeHoldPressures h u)).setSeq h
        { closedSeq (s.seq h) x with
          state := .done, commanded := PerArea.tabulate fun a => some (s.lim.areas.get a).hold } = t at ends
    have away : LeftBy h u t := doneWith ▸ leftBy_holdPressures h _ .headDone (some h) _ u
    have counted := waferCounted_store t
    have kept : t.store = s.store := by
      rw [← doneWith, State.setSeq_store, queueEvent_store, writeHoldPressures, commandAll_store, store]
    rw [← ends, kept] at counted
    have field {α : Type} (f : State → α) (unread : ∀ (t : State) (x : ParameterStore), f { t with store := x } = f t) :
        f (endStep h .skip (skipped h (served r s))) = f t := (congrArg f ends).trans (waferCounted_field f unread t)
    have base : (skipped h (served r s)).base = s.base :=
      (skipped_field (fun t => t.base) (fun _ _ => rfl) h _).trans (served_base r s)
    refine ⟨_, u, x, skips inStep, by rw [is, ← skipped_served]; rfl, (field (fun t => t.seq h) fun _ _ => rfl).trans ?_,
      closes.step, closes.cause, by rw [closes.duration, base], closes.sweeps, by rw [closes.cleared, seq], counted.1,
      counted.2.1, counted.2.2.1, counted.2.2.2, (field (fun t => t.mgmt) fun _ _ => rfl).trans ?_,
      (field (fun t => t.arb) fun _ _ => rfl).trans away.arb, (field (fun t => t.dose) fun _ _ => rfl).trans away.dose,
      (field (fun t => t.cdr) fun _ _ => rfl).trans away.cdr, (field (fun t => t.seq h.other) fun _ _ => rfl).trans away.other,
      (field (fun t => t.samplers) fun _ _ => rfl).trans away.samplers,
      (field (fun t => t.comps) fun _ _ => rfl).trans away.comps, fun active a => ?_,
      fun f others => (field (fun t => t.slots.get f) fun _ _ => rfl).trans (away.slots f others),
      by simpa using moved.steps, by simpa [keepsPorts] using moved.keepsPorts, by simpa [keepsBase] using moved.keepsBase,
      by simpa using moved.fmap, moved.cu⟩
    · rw [← doneWith, State.seq_setSeq_same]
      simp [closedSeq]
    · rw [← doneWith, State.setSeq_mgmt, holdPressures_event_mgmt]
      rfl
    · have held := holdPressures_value (h := h) (mode.trans active) a
      rw [released.lim, lim] at held
      refine (slotValue_congr ((field (fun t => t.slots.get (.head h a)) fun _ _ => rfl).trans ?_)).trans held
      rw [← doneWith, State.setSeq_slots, queueEvent_slots]

end Sys2Proof.Machine


/-! ## Step entry (R8 to R11, R19, R73) -/

namespace Sys2Proof.Machine

/-- `p` is `v` after a head, with the sequencer `q` at a step `st`, has entered POLISHING (R11, R48, R65). -/
structure Enters (h : Head) (st : StepRecord) (q : Sequencer) (v p : State) : Prop where
  seq : p.seq h = { q with
    commanded := PerArea.tabulate fun x => some ((basePressures st).get x)
    state := .polishing
    timer := .running (v.base.time + BitVec.ofNat 32 st.limit)
    gap := freshGap v st
    current := q.current.map fun c => { c with interval := some v.base.time, polished := true } }
  sampler      : p.sampler h = { v.sampler h with openSweep := none, counter := 0, history := [] }
  comp         : p.comp h = none
  other        : p.seq h.other = v.seq h.other
  samplerOther : p.sampler h.other = v.sampler h.other
  compOther    : p.comp h.other = v.comp h.other
  arb          : p.arb = v.arb
  dose         : p.dose = v.dose
  cdr          : p.cdr = v.cdr
  mgmt         : p.mgmt = v.mgmt
  store        : p.store = v.store
  slots        : ∀ f, (∀ x, f ≠ .head h x) → p.slots.get f = v.slots.get f
  value        : v.active = true → ∀ x, slotValue p (.head h x) = some ((basePressures st).get x)

section Enters

variable {h : Head} {st : StepRecord} {q : Sequencer} {v : State}

theorem polishingEntry_enters (step : (v.setSeq h q).currentStep h = some st) :
    Enters h st q v (polishingEntry h (v.setSeq h q)) where
  seq := by
    rw [polishingEntry_seq step, State.seq_setSeq_same]
    rfl
  sampler := polishingEntry_sampler step
  comp := polishingEntry_comp step
  other := (polishingEntry_other h _).1.trans (State.seq_setSeq_other v h q)
  samplerOther := (polishingEntry_other h _).2.1
  compOther := (polishingEntry_other h _).2.2
  arb := polishingEntry_arb h _
  dose := polishingEntry_dose h _
  cdr := polishingEntry_cdr h _
  mgmt := polishingEntry_mgmt h _
  store := polishingEntry_store h _
  slots _ others := polishingEntry_slot_of_ne _ others
  value active x := polishingEntry_value step active x

theorem freshGap_congr {s t : State} (base : t.base = s.base) (lim : t.lim = s.lim) (st : StepRecord) :
    freshGap t st = freshGap s st := by
  simp only [freshGap, base, lim]

theorem currentStep_setSeq {s : State} (q : Sequencer) (i : Nat) (index : currentIndex q = some i) :
    (s.setSeq h q).currentStep h = tableGet s.steps i := by
  rw [State.currentStep, State.seq_setSeq_same, index]
  rfl

/-- POLISHING entry of a head that has entered already leaves what the first entry left. -/
theorem polishingEntry_enters_again {i : Nat} (index : currentIndex q = some i) (step : tableGet v.steps i = some st) :
    Enters h st q (polishingEntry h v) (polishingEntry h (polishingEntry h (v.setSeq h q))) := by
  have current : (v.setSeq h q).currentStep h = some st := (currentStep_setSeq q i index).trans step
  have first := polishingEntry_enters current
  have moved := polishingEntry_moves h (v.setSeq h q)
  have base := (polishingEntry_moves h v).base
  have lim := (polishingEntry_moves h v).lim
  have again : (polishingEntry h (v.setSeq h q)).currentStep h = some st := by
    rw [State.currentStep, first.seq, moved.steps]
    show (currentIndex q).bind (tableGet v.steps) = some st
    rw [index]
    exact step
  have other := polishingEntry_other h v
  have second := polishingEntry_other h (polishingEntry h (v.setSeq h q))
  constructor
  · rw [polishingEntry_seq again, first.seq, base, moved.base, freshGap_congr base lim, freshGap_congr moved.base moved.lim]
    simp [Function.comp_def, freshGap_congr (s := v) (t := v.setSeq h q) rfl rfl]
  · rw [polishingEntry_sampler again, first.sampler]
    cases now : v.currentStep h with
    | none => rw [polishingEntry_of_no_step now]
    | some _ => rw [polishingEntry_sampler now]
  · exact polishingEntry_comp again
  · exact second.1.trans (first.other.trans other.1.symm)
  · exact second.2.1.trans (first.samplerOther.trans other.2.1.symm)
  · exact second.2.2.trans (first.compOther.trans other.2.2.symm)
  · simp
  · simp
  · simp
  · simp
  · simp
  · intro f others
    rw [polishingEntry_slot_of_ne _ others, first.slots f others, polishingEntry_slot_of_ne _ others]
  · intro active
    exact polishingEntry_value again (moved.active.trans ((polishingEntry_moves h v).active.symm.trans active))

/-- A head that gives up the pad it holds and then polishes (R9, R74). -/
theorem released_enters {u : State} {i : Nat} (state : q.state = (u.seq h).state) (index : currentIndex q = some i)
    (step : tableGet u.steps i = some st) :
    Enters h st q (releasePad h u) (polishingEntry h (releasePad h (u.setSeq h q))) := by
  by_cases apart : NotNext u h
  · rw [releasePad_setSeq h state apart]
    exact polishingEntry_enters ((currentStep_setSeq q i index).trans (by rw [(releasePad_moves h u).steps, step]))
  · simp only [NotNext, not_forall, not_not] at apart
    obtain ⟨waits, e, rest, first⟩ := apart
    have plain (r : releasePad h (u.setSeq h q) = (releasePad h u).setSeq h q) :
        Enters h st q (releasePad h u) (polishingEntry h (releasePad h (u.setSeq h q))) := by
      rw [r]
      exact polishingEntry_enters ((currentStep_setSeq q i index).trans (by rw [(releasePad_moves h u).steps, step]))
    by_cases held : ∃ g, u.arb.service = some g ∧ g.holders.get h = true
    · obtain ⟨g, granted, holds⟩ := held
      cases other : g.holders.get h.other with
      | true =>
        refine plain ?_
        rw [releasePad_of_other granted holds other, releasePad_of_other (s := u.setSeq h q) granted holds other]
        exact doseEntry_setSeq (u.setArb _) h q _ _
      | false =>
        have granted' : (u.setSeq h q).arb.service = some g := granted
        have first' : (u.setSeq h q).arb.waiting = (h, e) :: rest := first
        have starts := startEntry_setSeq (stopProgram (u.setArb { u.arb with service := none, waiting := rest })) h q h e
        have found : (startEntry h e (stopProgram (u.setArb { u.arb with service := none, waiting := rest }))).seq h = u.seq h :=
          State.seq_of_seqs (startEntry_seqs _ _ _) h
        have steps : (startEntry h e (stopProgram (u.setArb { u.arb with service := none, waiting := rest }))).steps = u.steps :=
          (startEntry_moves _ _ _).steps
        rw [releasePad_of_waiting granted' holds other first', releasePad_of_waiting granted holds other first,
          grantWaiting_of_waiting (by rw [found, waits]), show stopProgram ((u.setSeq h q).setArb
            { (u.setSeq h q).arb with service := none, waiting := rest }) =
            (stopProgram (u.setArb { u.arb with service := none, waiting := rest })).setSeq h q from rfl, starts,
          grantWaiting_of_waiting (by rw [State.seq_setSeq_same, state, waits])]
        exact polishingEntry_enters_again index (by rw [steps, step])
    · have free : ∀ g, u.arb.service = some g → g.holders.get h = false := fun g granted => by
        rw [Bool.eq_false_iff]
        exact fun holds => held ⟨g, granted, holds⟩
      refine plain ?_
      rw [releasePad_of_not_holding free, releasePad_of_not_holding (s := u.setSeq h q) free]

end Enters

/-- The state in which a head at step entry finds the pad: STEP_ENTERED queued, its part fresh (R9). -/
theorem enteredStep_setSeq (h : Head) (i : Nat) (q : Sequencer) (s : State) :
    enteredStep h i (s.setSeq h q) =
      (queueEvent .stepEntered (some h) [dv (q.position.getD 0), dv i] s).setSeq h (freshStep i q) := by
  simp [enteredStep, queueEvent_setSeq]

theorem currentIndex_of_position {q : Sequencer} {p : List Nat} {n : Nat} (program : q.program = some p)
    (position : q.position = some (n + 1)) : currentIndex q = p[n]? := by
  simp [currentIndex, program, position]

/-- Step entry at a position whose step is loaded (R9). -/
theorem stepEntry_setSeq {h : Head} {s : State} {q : Sequencer} {i : Nat} {st : StepRecord}
    (index : currentIndex q = some i) (step : tableGet s.steps i = some st) :
    stepEntry h (s.setSeq h q) = match st.pad with
      | none => polishingEntry h (releasePad h
          ((queueEvent .stepEntered (some h) [dv (q.position.getD 0), dv i] s).setSeq h (freshStep i q)))
      | some e => requestPad h e
          ((queueEvent .stepEntered (some h) [dv (q.position.getD 0), dv i] s).setSeq h (freshStep i q)) := by
  refine (stepEntry_of_step (i := i) (by rw [State.seq_setSeq_same, index])
    ((currentStep_setSeq q i index).trans step)).trans ?_
  cases st.pad <;> simp only [enteredStep_setSeq]

/-- A request for the entry that the head holds is a POLISHING entry (R73). -/
theorem requestPad_of_held {h : Head} {s : State} {g : Grant} (free : s.arb.hold = false)
    (granted : s.arb.service = some g) (holds : g.holders.get h = true) :
    requestPad h g.entry s = polishingEntry h s := by
  have same : releaseOther h g.entry s = s := if_pos (by rw [grantedEntry, granted]; rfl)
  simp [requestPad, same, decideRequest, free, granted, holds]

/-- The end of a step that is not the last, whose successor needs no pad or the pad that the head holds (R19). -/
theorem endStep_enters {s : State} {h : Head} {p : List Nat} {n i : Nat} {c : InProgress} {st : StepRecord}
    (cause : EndCause) (program : (s.seq h).program = some p) (position : (s.seq h).position = some n)
    (next : n < p.length) (index : p[n]? = some i) (step : tableGet s.steps i = some st)
    (current : (s.seq h).current = some c)
    (pad : st.pad = none ∨ ∃ g, st.pad = some g.entry ∧ s.arb.hold = false ∧ s.arb.service = some g ∧
      g.holders.get h = true) :
    ∃ x u, Closes s h cause c x ∧
      u = queueEvent .stepEntered (some h) [dv (n + 1), dv i]
        (queueEvent .stepEnded (some h) [dv c.step, dv (causeCode cause), durationWord x.duration] s) ∧
      Enters h st (freshStep i { closedSeq (s.seq h) x with position := some (n + 1) })
        (if st.pad = none then releasePad h u else u) (endStep h cause s) := by
  obtain ⟨x, closes, closed⟩ := closeStep_of_current cause current
  refine ⟨x, _, closes, rfl, ?_⟩
  have entry : currentIndex { closedSeq (s.seq h) x with position := some (n + 1) } = some i :=
    (currentIndex_of_position (q := { closedSeq (s.seq h) x with position := some (n + 1) }) program rfl).trans index
  have fresh : currentIndex (freshStep i { closedSeq (s.seq h) x with position := some (n + 1) }) = some i := entry
  have steps : ∀ kind head data (t : State), (queueEvent kind head data t).steps = t.steps := fun _ _ _ _ => queueEvent_steps ..
  rw [endStep_of_next cause program position next, closed, State.seq_setSeq_same, State.setSeq_setSeq,
    stepEntry_setSeq entry (by rw [steps, step])]
  rcases pad with none | ⟨g, some, free, granted, holds⟩
  · rw [none, if_pos rfl]
    exact released_enters (by simp [freshStep, closedSeq]) fresh (by rw [steps, steps, step])
  · rw [some, if_neg (by simp)]
    dsimp only
    rw [requestPad_of_held (by simpa using free) (by simpa using granted) holds]
    exact polishingEntry_enters ((currentStep_setSeq _ i fresh).trans (by rw [steps, steps, step]))

@[simp] theorem releasePad_zoneMap (h k : Head) (s : State) : ((releasePad h s).sampler k).zoneMap = (s.sampler k).zoneMap := by
  have polishing (w : Head) (t : State) : ((polishingEntry w t).sampler k).zoneMap = (t.sampler k).zoneMap := by
    cases step : t.currentStep w with
    | none => rw [polishingEntry_of_no_step step]
    | some st =>
      rcases Head.eq_or_other w k with rfl | rfl
      · rw [polishingEntry_sampler step]
      · rw [(polishingEntry_other w t).2.1]
  unfold releasePad
  split
  · rfl
  · split
    · dsimp only
      split
      · exact congrArg Sampler.zoneMap (State.sampler_of_samplers (writeDosing_samplers ..) k)
      · split
        · refine (grantWaiting_field _ _ (fun t => (t.sampler k).zoneMap) (polishing _ _)).trans ?_
          exact congrArg Sampler.zoneMap (State.sampler_of_samplers (startEntry_samplers ..) k)
        · have samplers := congrArg State.samplers (writeIdleValues_only (stopProgram (s.setArb { s.arb with service := none })))
          exact congrArg Sampler.zoneMap (State.sampler_of_samplers samplers k)
    · rfl

/-- Settles O39: the close of the step and the entry of the next one. -/
theorem stepEndEntersTheNextStep : Obligations.StepEndEntersTheNextStep := by
  intro s h cause p n i c st program position next index step current pad
  obtain ⟨x, u, closes, is, enters⟩ := endStep_enters cause program position next index step current pad
  have queued := (queueEvent_moves .stepEnded (some h) [dv c.step, dv (causeCode cause), durationWord x.duration] s).trans
    (queueEvent_moves .stepEntered (some h) [dv (n + 1), dv i] _)
  rw [← is] at queued
  have moved := endStep_moves h cause s
  have padded : Moves u (if st.pad = none then releasePad h u else u) := by
    split
    · exact releasePad_moves h u
    · exact Moves.refl u
  have base := padded.base.trans queued.base
  have sampler : u.sampler h = s.sampler h := by simp [is]
  refine ⟨x, u, _, is, rfl, by rw [enters.seq]; rfl, closes.step, closes.cause, closes.duration, closes.sweeps,
    by rw [enters.seq], by rw [enters.seq]; rfl, by rw [enters.seq, base], by rw [enters.seq, base]; rfl, fun a => ?_,
    ?_, enters.comp, enters.mgmt, enters.arb, enters.dose, enters.cdr, enters.other, enters.samplerOther, enters.compOther,
    enters.slots, moved.keepsPorts, moved.keepsBase, ?_, moved.fmap, moved.steps, moved.cu⟩
  · rw [enters.seq]
    simp [basePressures]
  · rw [enters.sampler]
    have zoneMap : ((if st.pad = none then releasePad h u else u).sampler h).zoneMap = (s.sampler h).zoneMap := by
      split
      · rw [releasePad_zoneMap, sampler]
      · rw [sampler]
    exact congrArg (fun z => ({ zoneMap := z, openSweep := none, counter := 0, history := [] } : Sampler)) zoneMap
  · rw [enters.store]
    have store : u.store = s.store := by simp [is]
    split
    · rw [releasePad_store, store]
    · exact store

end Sys2Proof.Machine


/-! ## START_HEAD (R8 to R11, R73, R75) -/

namespace Sys2Proof.Machine

/-! The checks of R8. -/

theorem mem_programSteps {s : State} {p : List Nat} {x : StepRecord} :
    x ∈ programSteps s p ↔ ∃ j ∈ p, tableGet s.steps j = some x := List.mem_filterMap

theorem thicknessReady_iff {s : State} {h : Head} {p : List Nat} :
    thicknessReady s h (programSteps s p) = true ↔
      ((∃ j ∈ p, ∃ x, tableGet s.steps j = some x ∧ (x.control ≠ none ∨ x.endpoint ≠ none)) →
        s.store.cal ≠ none ∧ (s.sampler h).zoneMap ≠ none) := by
  have watched : (programSteps s p).any StepRecord.watched = true ↔
      ∃ j ∈ p, ∃ x, tableGet s.steps j = some x ∧ (x.control ≠ none ∨ x.endpoint ≠ none) := by
    simp only [List.any_eq_true, mem_programSteps, StepRecord.watched_iff]
    exact ⟨fun ⟨x, ⟨j, mem, is⟩, uses⟩ => ⟨j, mem, x, is, uses⟩, fun ⟨j, mem, x, is, uses⟩ => ⟨x, ⟨j, mem, is⟩, uses⟩⟩
  rw [← watched]
  simp [thicknessReady, Option.isSome_iff_ne_none, imp_iff_not_or]

theorem entriesLoaded_iff {s : State} {p : List Nat} :
    entriesLoaded s (programSteps s p) = true ↔
      ∀ j ∈ p, ∀ x e, tableGet s.steps j = some x → x.pad = some e → tableGet s.arb.table e ≠ none := by
  simp only [entriesLoaded, List.all_eq_true, mem_programSteps, Option.all_eq_true, Option.isSome_iff_ne_none]
  exact ⟨fun all j mem x e is pad => all x ⟨j, mem, is⟩ e pad, fun all x ⟨j, mem, is⟩ e pad => all j mem x e is pad⟩

theorem startable_iff (x : HeadState) : x.startable = true ↔ x ∈ [HeadState.ready, .done, .aborted] := by
  cases x <;> decide

theorem not_startable_iff (x : HeadState) :
    x.startable = false ↔ x ∈ [HeadState.empty, .waitPad, .polishing, .paused, .hold] := by cases x <;> decide

/-- The checks of START_HEAD on what a program needs (R8, checks 4 and 5). -/
def programReady (s : State) (h : Head) : Bool :=
  thicknessReady s h (programSteps s ((s.seq h).program.getD [])) &&
    entriesLoaded s (programSteps s ((s.seq h).program.getD []))

theorem programReady_served (r : Request) (s : State) (h : Head) : programReady (served r s) h = programReady s h := by
  simp only [programReady, thicknessReady, entriesLoaded, programSteps, served_seq, served_steps, served_store, served_sampler,
    served_arb]

theorem ownStartHead_eq (r : Request) (h : Head) (s : State) :
    ownStartHead r (headCode h) s =
      if !s.active then refuse s .mode
      else if !(s.seq h).state.startable then refuse s .state
      else if programReady s h then (startHead h s, doneAnswer) else refuse s .notReady := by
  simp only [ownStartHead, headOfCode_headCode, programReady] <;> rfl

theorem startHead_moves (h : Head) (s : State) : Moves s (startHead h s) := (setSeq_moves h _ s).trans (stepEntry_moves h _)

/-- START_HEAD of a head that it starts (R8). -/
theorem startHead_request {r : Request} {s : State} {h : Head} (adm : Admitted r s) (names : namesHead r h)
    (active : s.mgmt.mode = .active) (state : (s.seq h).state ∈ [HeadState.ready, .done, .aborted])
    (ready : programReady s h = true) :
    exec (.startHead r) s = completes r .done [] (startHead h (served r s)) := by
  refine request_completes 14 adm (wholeWalk_of_namesHead names) ?_
    ((startHead_moves h _).resetTaken.trans (served_resetTaken r s))
  rw [ownStartHead_eq, served_active, active_eq_true active, served_seq, (startable_iff _).mpr state, programReady_served,
    ready]
  rfl

/-- What START_HEAD leaves to step entry: the program runs from its first step, without results (R8). -/
def startedSeq (q : Sequencer) : Sequencer := { q with position := some 1, results := [], current := none }

/-- The state in which the first step is entered. -/
def startQueued (h : Head) (i : Nat) (s : State) : State := queueEvent .stepEntered (some h) [dv 1, dv i] s

theorem startHead_eq {h : Head} {s : State} {p : List Nat} {i : Nat} {st : StepRecord}
    (program : (s.seq h).program = some (i :: p)) (step : tableGet s.steps i = some st) :
    startHead h s = match st.pad with
      | none => polishingEntry h (releasePad h
          ((startQueued h i s).setSeq h (freshStep i (startedSeq (s.seq h)))))
      | some e => requestPad h e ((startQueued h i s).setSeq h (freshStep i (startedSeq (s.seq h)))) :=
  stepEntry_setSeq (q := startedSeq (s.seq h))
    (currentIndex_of_position (q := startedSeq (s.seq h)) (n := 0) program rfl) step

theorem startedIndex {q : Sequencer} {p : List Nat} {i : Nat} (program : q.program = some (i :: p)) :
    currentIndex (freshStep i (startedSeq q)) = some i :=
  currentIndex_of_position (q := freshStep i (startedSeq q)) (n := 0) program rfl

section Queued

variable (h : Head) (i : Nat) (s : State)

@[simp] theorem startQueued_seq (k : Head) : (startQueued h i s).seq k = s.seq k := queueEvent_seq ..
@[simp] theorem startQueued_sampler (k : Head) : (startQueued h i s).sampler k = s.sampler k := queueEvent_sampler ..
@[simp] theorem startQueued_comp (k : Head) : (startQueued h i s).comp k = s.comp k := queueEvent_comp ..
@[simp] theorem startQueued_samplers : (startQueued h i s).samplers = s.samplers := queueEvent_samplers ..
@[simp] theorem startQueued_comps : (startQueued h i s).comps = s.comps := queueEvent_comps ..
@[simp] theorem startQueued_arb : (startQueued h i s).arb = s.arb := queueEvent_arb ..
@[simp] theorem startQueued_dose : (startQueued h i s).dose = s.dose := queueEvent_dose ..
@[simp] theorem startQueued_cdr : (startQueued h i s).cdr = s.cdr := queueEvent_cdr ..
@[simp] theorem startQueued_slots : (startQueued h i s).slots = s.slots := queueEvent_slots ..
@[simp] theorem startQueued_store : (startQueued h i s).store = s.store := queueEvent_store ..
@[simp] theorem startQueued_base : (startQueued h i s).base = s.base := queueEvent_base ..
@[simp] theorem startQueued_steps : (startQueued h i s).steps = s.steps := queueEvent_steps ..
@[simp] theorem startQueued_active : (startQueued h i s).active = s.active := queueEvent_active ..
@[simp] theorem startQueued_lim : (startQueued h i s).lim = s.lim := queueEvent_lim ..

end Queued

@[simp] theorem served_comp (r : Request) (s : State) (h : Head) : (served r s).comp h = s.comp h := by
  rw [State.comp, served_comps]
  rfl

theorem programReady_iff {s : State} {h : Head} {p : List Nat} (program : (s.seq h).program = some p) :
    programReady s h = true ↔
      ((∃ j ∈ p, ∃ x, tableGet s.steps j = some x ∧ (x.control ≠ none ∨ x.endpoint ≠ none)) →
        s.store.cal ≠ none ∧ (s.sampler h).zoneMap ≠ none) ∧
      ∀ j ∈ p, ∀ x e, tableGet s.steps j = some x → x.pad = some e → tableGet s.arb.table e ≠ none := by
  rw [programReady, program, Option.getD_some, Bool.and_eq_true, thicknessReady_iff, entriesLoaded_iff]

/-- The refusals of START_HEAD (R8, checks 1 to 5). -/
theorem startHead_refusals {r : Request} {s : State} (adm : Admitted r s) :
    (∀ b : Byte, r.args = [b] → b ≠ 1 → b ≠ 2 → exec (.startHead r) s = completes r .invalid [] (served r s)) ∧
    ∀ h, namesHead r h →
      (s.mgmt.mode = .transparent → exec (.startHead r) s = completes r .mode [] (served r s)) ∧
      (s.mgmt.mode = .active → (s.seq h).state ∈ [HeadState.empty, .waitPad, .polishing, .paused, .hold] →
        exec (.startHead r) s = completes r .state [] (served r s)) ∧
      (s.mgmt.mode = .active → (s.seq h).state ∈ [HeadState.ready, .done, .aborted] → programReady s h = false →
        exec (.startHead r) s = completes r .notReady [] (served r s)) := by
  refine ⟨fun b args notA notB => ?_, fun h names => ⟨fun transparent => ?_, fun active state => ?_,
    fun active state notReady => ?_⟩⟩
  · refine request_refused 14 adm (by rw [args]; exact wholeWalk_byte b) ?_
    simp only [ownStartHead, headOfCode_of_ne (h := .a) notA notB]
  all_goals
    refine request_refused 14 adm (wholeWalk_of_namesHead names) ?_
    rw [ownStartHead_eq, served_active]
  · rw [active_eq_false transparent]
    rfl
  · rw [active_eq_true active, served_seq, (not_startable_iff _).mpr state]
    rfl
  · rw [active_eq_true active, served_seq, (startable_iff _).mpr state, programReady_served, notReady]
    rfl

/-- Settles O32: the checks, and POLISHING entry of the first step. -/
theorem startHeadEntersPolishing : Obligations.StartHeadEntersPolishing := by
  refine ⟨fun r s adm => ⟨(startHead_refusals adm).1, fun h names => ?_⟩, ?_⟩
  · obtain ⟨mode, state, notReady⟩ := (startHead_refusals adm).2 h names
    refine ⟨mode, state, fun p active startable program lacks => notReady active startable ?_⟩
    rw [Bool.eq_false_iff, ne_eq, programReady_iff program]
    rintro ⟨thickness, entries⟩
    rcases lacks with ⟨watched, none⟩ | ⟨j, mem, x, e, is, pad, empty⟩
    · exact none.elim (thickness watched).1 (thickness watched).2
    · exact entries j mem x e is pad empty
  · intro r s h p i st adm names active state program _ thickness entries step noPad free
    have ready := (programReady_iff program).mpr ⟨thickness, entries⟩
    have program' : ((served r s).seq h).program = some (i :: p) := by rw [served_seq, program]
    have start := startHead_eq (h := h) (s := served r s) program' (by rw [served_steps, step])
    have moved := startHead_moves h (served r s)
    rw [noPad] at start
    have enters : Enters h st (freshStep i (startedSeq (s.seq h))) (startQueued h i (served r s)) (startHead h (served r s)) := by
      have entered := released_enters (h := h) (st := st) (q := freshStep i (startedSeq (s.seq h)))
        (u := startQueued h i (served r s)) (i := i) (by simp [freshStep, startedSeq]) (startedIndex program) (by simp [step])
      rw [releasePad_of_not_holding (s := startQueued h i (served r s)) (by simpa using free)] at entered
      rw [start, served_seq]
      exact entered
    refine ⟨_, startHead_request adm names active state ready, fun x => ?_, ?_, by simpa using enters.sampler, enters.comp,
      by simpa using enters.other, by simpa using enters.samplerOther, by simpa using enters.compOther, fun x => ?_,
      fun f others => by simpa using enters.slots f others, enters.mgmt, moved.cu, by simpa using moved.steps,
      by simpa using moved.fmap, by simpa using enters.store, ?_, by simpa [keepsPorts] using moved.keepsPorts,
      by simpa [keepsBase] using moved.keepsBase⟩
    · rw [enters.seq]
      simp [basePressures]
    · rw [enters.seq]
      simp [freshStep, startedSeq, freshGap_eq, program]
    · rw [enters.seq]
      refine (enters.value (by simpa using active_eq_true active) x).trans ?_
      simp
    · exact ⟨by simpa using enters.arb, by simpa using enters.dose, by simpa using enters.cdr⟩

/-! The first step asks for the pad (R73). -/

theorem joinService_eq (h : Head) (g : Grant) (s : State) :
    joinService h g s = writeDosing (entryDose s g.entry (holderCount (g.holders.set h true)))
      (queueEvent .padGranted (some h) [dv g.entry, dv (holderCount (g.holders.set h true))]
        (s.setArb { s.arb with service := some { g with holders := g.holders.set h true } })) := by
  have moved : Moves s (queueEvent .padGranted (some h) [dv g.entry, dv (holderCount (g.holders.set h true))]
      (s.setArb { s.arb with service := some { g with holders := g.holders.set h true } })) :=
    Moves.trans (t := s.setArb { s.arb with service := some { g with holders := g.holders.set h true } })
      (setArb_moves rfl) (queueEvent_moves _ _ _ _)
  rw [← entryDose_congr moved.entries moved.blends moved.lim]
  rfl

theorem joinService_setSeq (h : Head) (g : Grant) (s : State) (q : Sequencer) :
    joinService h g (s.setSeq h q) = (joinService h g s).setSeq h q := by
  have arb (a : Arbiter) : (s.setSeq h q).setArb a = (s.setArb a).setSeq h q := rfl
  have dose : entryDose (s.setSeq h q) g.entry (holderCount (g.holders.set h true)) =
    entryDose s g.entry (holderCount (g.holders.set h true)) := rfl
  rw [joinService_eq, joinService_eq, State.setSeq_arb, arb, dose, queueEvent_setSeq, writeDosing_setSeq]

@[simp] theorem State.setArb_sampler (s : State) (a : Arbiter) (h : Head) : (s.setArb a).sampler h = s.sampler h := rfl
@[simp] theorem State.setArb_comp (s : State) (a : Arbiter) (h : Head) : (s.setArb a).comp h = s.comp h := rfl
@[simp] theorem State.setArb_seq (s : State) (a : Arbiter) (h : Head) : (s.setArb a).seq h = s.seq h := rfl

theorem releaseOther_of_not_holding {h : Head} {s : State} (e : Nat)
    (free : ∀ g, s.arb.service = some g → g.holders.get h = false) : releaseOther h e s = s := by
  unfold releaseOther
  split
  · rfl
  · exact releasePad_of_not_holding free

section Decisions

variable {h : Head} {e : Nat} {s : State} (free : ∀ g, s.arb.service = some g → g.holders.get h = false)

include free

/-- A request that is not granted waits (R10, R73). -/
theorem requestPad_waits (blocked : s.arb.hold = true ∨ ∃ g, s.arb.service = some g ∧ g.entry ≠ e) :
    requestPad h e s = enterWaitPad h e s := by
  rw [requestPad, releaseOther_of_not_holding e free, decideRequest]
  rcases blocked with hold | ⟨g, granted, other⟩
  · rw [if_pos hold]
  · split
    · rfl
    · rw [granted]
      exact if_neg other

/-- A request to a FREE service is granted (R73). -/
theorem requestPad_grants (released : s.arb.hold = false) (none : s.arb.service = none) :
    requestPad h e s = polishingEntry h (startEntry h e s) := by
  rw [requestPad, releaseOther_of_not_holding e free, decideRequest, released, none]
  rfl

/-- A request for the granted entry joins (R73). -/
theorem requestPad_joins {g : Grant} (released : s.arb.hold = false) (granted : s.arb.service = some g) (same : g.entry = e) :
    requestPad h e s = polishingEntry h (joinService h g s) := by
  rw [requestPad, releaseOther_of_not_holding e free, decideRequest, released, granted]
  simp [same, free g granted]

end Decisions

/-- A head that waits for the pad: its hold pressures, then its state (R10). -/
theorem enterWaitPad_setSeq (h : Head) (e : Nat) (q : Sequencer) (s : State) :
    enterWaitPad h e (s.setSeq h q) =
      (writeHoldPressures h (s.setArb { s.arb with waiting := s.arb.waiting ++ [(h, e)] })).setSeq h
        { q with state := .waitPad, commanded := PerArea.tabulate fun a => some (s.lim.areas.get a).hold } := by
  have arb (a : Arbiter) : (s.setSeq h q).setArb a = (s.setArb a).setSeq h q := rfl
  have lim (t : State) : (t.setSeq h q).lim = t.lim := rfl
  simp [enterWaitPad, writeHoldPressures, arb, lim, commandAll_setSeq_same, holdPressures]
  rfl

/-- What START_HEAD leaves in every case of a pad step. -/
structure StartsAtPad (h : Head) (s t : State) : Prop where
  position     : (t.seq h).position = some 1
  results      : (t.seq h).results = []
  other        : t.seq h.other = s.seq h.other
  samplerOther : t.sampler h.other = s.sampler h.other
  compOther    : t.comp h.other = s.comp h.other
  store        : t.store = s.store
  hold         : t.arb.hold = s.arb.hold

theorem Enters.startsAtPad {h : Head} {st : StepRecord} {i : Nat} {q : Sequencer} {s v t : State}
    (enters : Enters h st (freshStep i (startedSeq q)) v t) (seqs : v.seqs = s.seqs) (samplers : v.samplers = s.samplers)
    (comps : v.comps = s.comps) (store : v.store = s.store) (hold : v.arb.hold = s.arb.hold) : StartsAtPad h s t where
  position := by rw [enters.seq]; rfl
  results := by rw [enters.seq]; rfl
  other := enters.other.trans (State.seq_of_seqs seqs _)
  samplerOther := enters.samplerOther.trans (State.sampler_of_samplers samplers _)
  compOther := enters.compOther.trans (by rw [State.comp, comps]; rfl)
  store := enters.store.trans store
  hold := by rw [enters.arb, hold]

section PadStep

variable {r : Request} {s : State} {h : Head} {i e : Nat} {st : StepRecord} {p : List Nat}

/-- The state that START_HEAD hands to the arbiter. -/
def asksForPad (r : Request) (h : Head) (i : Nat) (s : State) : State :=
  (startQueued h i (served r s)).setSeq h (freshStep i (startedSeq (s.seq h)))

theorem startHead_asks (program : (s.seq h).program = some (i :: p)) (step : tableGet s.steps i = some st)
    (pad : st.pad = some e) : startHead h (served r s) = requestPad h e (asksForPad r h i s) := by
  have start := startHead_eq (h := h) (s := served r s) (by rw [served_seq, program]) (by rw [served_steps, step])
  rw [pad, served_seq] at start
  exact start

theorem asksForPad_arb : (asksForPad r h i s).arb = s.arb := by simp [asksForPad]

theorem asksForPad_free (free : ∀ g, s.arb.service = some g → g.holders.get h = false) :
    ∀ g, (asksForPad r h i s).arb.service = some g → g.holders.get h = false := by
  rw [asksForPad_arb]
  exact free

end PadStep

end Sys2Proof.Machine


/-! ## START_HEAD of a head whose first step needs the pad (R10, R73, R75) -/

namespace Sys2Proof.Machine

section

variable {r : Request} {s : State} {h : Head} {i e : Nat} {st : StepRecord} {p : List Nat}
  (active : s.mgmt.mode = .active) (program : (s.seq h).program = some (i :: p)) (step : tableGet s.steps i = some st)
  (pad : st.pad = some e) (free : ∀ g, s.arb.service = some g → g.holders.get h = false)

include program step pad free

theorem startHead_waits (blocked : s.arb.hold = true ∨ ∃ g, s.arb.service = some g ∧ g.entry ≠ e) :
    startHead h (served r s) =
      (writeHoldPressures h ((startQueued h i (served r s)).setArb { s.arb with waiting := s.arb.waiting ++ [(h, e)] })).setSeq h
        { freshStep i (startedSeq (s.seq h)) with
          state := .waitPad, commanded := PerArea.tabulate fun a => some (s.lim.areas.get a).hold } := by
  rw [startHead_asks program step pad, requestPad_waits (asksForPad_free free) (by rw [asksForPad_arb]; exact blocked),
    asksForPad, enterWaitPad_setSeq]
  simp

theorem startHead_grants (released : s.arb.hold = false) (none : s.arb.service = none) :
    Enters h st (freshStep i (startedSeq (s.seq h))) (startEntry h e (startQueued h i (served r s)))
      (startHead h (served r s)) := by
  rw [startHead_asks program step pad,
    requestPad_grants (asksForPad_free free) (by rw [asksForPad_arb, released]) (by rw [asksForPad_arb, none]), asksForPad,
    startEntry_setSeq]
  refine polishingEntry_enters ((currentStep_setSeq _ i (startedIndex program)).trans ?_)
  rw [(startEntry_moves ..).steps, startQueued_steps, served_steps, step]

theorem startHead_joins {g : Grant} (released : s.arb.hold = false) (granted : s.arb.service = some g) (same : g.entry = e) :
    Enters h st (freshStep i (startedSeq (s.seq h))) (joinService h g (startQueued h i (served r s)))
      (startHead h (served r s)) := by
  rw [startHead_asks program step pad, requestPad_joins (asksForPad_free free) (by rw [asksForPad_arb, released])
    (by rw [asksForPad_arb, granted]) same, asksForPad, joinService_setSeq]
  refine polishingEntry_enters ((currentStep_setSeq _ i (startedIndex program)).trans ?_)
  rw [(joinService_moves ..).steps, startQueued_steps, served_steps, step]

end

/-- The head waits: hold pressures, WAIT_PAD, the tail of the waiting list (R10). -/
theorem startHead_waits_spec {r : Request} {s : State} {h : Head} {i e : Nat} {t : State} (active : s.mgmt.mode = .active)
    (timer : (s.seq h).timer = .stopped) (gap : (s.seq h).gap = none)
    (is : t = (writeHoldPressures h
      ((startQueued h i (served r s)).setArb { s.arb with waiting := s.arb.waiting ++ [(h, e)] })).setSeq h
        { freshStep i (startedSeq (s.seq h)) with
          state := .waitPad, commanded := PerArea.tabulate fun a => some (s.lim.areas.get a).hold }) :
    StartsAtPad h s t ∧ (t.seq h).state = .waitPad ∧ (t.seq h).timer = .stopped ∧ (t.seq h).gap = none ∧
    (∀ x, (t.seq h).commanded.get x = some (s.lim.areas.get x).hold ∧
      (t.slots.get (.head h x)).map Slot.value = some (s.lim.areas.get x).hold) ∧
    t.arb = { s.arb with waiting := s.arb.waiting ++ [(h, e)] } ∧ t.samplers = s.samplers ∧ t.comps = s.comps ∧
    t.dose = s.dose ∧ t.cdr = s.cdr ∧ (∀ f, (∀ x, f ≠ .head h x) → t.slots.get f = s.slots.get f) ∧
    t.mgmt = (queueEvent .stepEntered (some h) [1, BitVec.ofNat 32 i] (served r s)).mgmt := by
  have other : (writeHoldPressures h ((startQueued h i (served r s)).setArb { s.arb with
      waiting := s.arb.waiting ++ [(h, e)] })).seq h.other = s.seq h.other := by
    rw [writeHoldPressures, commandAll_seq_of_ne _ _ h.other_ne]
    simp
  subst is
  refine ⟨⟨?_, ?_, ?_, ?_, ?_, ?_, ?_⟩, ?_, ?_, ?_, fun x => ⟨?_, ?_⟩, ?_, ?_, ?_, ?_, ?_, fun f others => ?_, ?_⟩
  · simp [freshStep, startedSeq]
  · simp [freshStep, startedSeq]
  · rw [State.seq_setSeq_other, other]
  · rw [State.sampler_setSeq, writeHoldPressures, State.sampler_of_samplers (commandAll_samplers ..)]
    simp
  · simp [State.comp, writeHoldPressures]
  · simp [writeHoldPressures]
  · simp [writeHoldPressures]
  · simp
  · simpa [freshStep, startedSeq] using timer
  · simpa [freshStep, startedSeq] using gap
  · simp
  · rw [State.setSeq_slots]
    have on : ((startQueued h i (served r s)).setArb { s.arb with waiting := s.arb.waiting ++ [(h, e)] }).mgmt.mode = .active :=
      (queueEvent_moves ..).mode.trans ((served_mode r s).trans active)
    have lim : ((startQueued h i (served r s)).setArb { s.arb with waiting := s.arb.waiting ++ [(h, e)] }).lim = s.lim :=
      (startQueued_lim ..).trans (served_lim r s)
    rw [← lim]
    exact holdPressures_value on x
  · simp [writeHoldPressures]
  · simp [writeHoldPressures]
  · simp [writeHoldPressures]
  · simp [writeHoldPressures]
  · simp [writeHoldPressures]
  · rw [State.setSeq_slots, writeHoldPressures, commandAll_slot_of_ne _ _ others]
    simp
  · simp [writeHoldPressures]
    rfl

/-- Settles O33: the arbiter's decision on the state that START_HEAD leaves. -/
theorem startHeadAtAPadStep : Obligations.StartHeadAtAPadStep := by
  intro r s h p i e st adm names active state timer gap program _ thickness entries step pad free
  have ready := (programReady_iff program).mpr ⟨thickness, entries⟩
  have moved := startHead_moves h (served r s)
  have on : (startQueued h i (served r s)).active = true := by simpa using active_eq_true active
  have waits := fun blocked => startHead_waits_spec (r := r) (e := e) active timer gap
    (startHead_waits (r := r) program step pad free blocked)
  have grants := startHead_grants (r := r) program step pad free
  have joins := fun g => startHead_joins (r := r) (g := g) program step pad free
  have granted : s.arb.hold = false → s.arb.service = none → StartsAtPad h s (startHead h (served r s)) :=
    fun released none => (grants released none).startsAtPad (by simp [startEntry_seqs, startQueued]) (by simp)
      (by simp) (by simp) (by rw [startEntry_arb]; simp)
  have joined : ∀ g, s.arb.hold = false → s.arb.service = some g → g.entry = e →
      StartsAtPad h s (startHead h (served r s)) := fun g released some same =>
    (joins g released some same).startsAtPad (by simp [startQueued]) (by simp [joinService_eq])
      (by simp [joinService_eq]) (by simp [joinService_eq]) (by simp [joinService_eq])
  have every : StartsAtPad h s (startHead h (served r s)) := by
    by_cases hold : s.arb.hold = true
    · exact (waits (.inl hold)).1
    · have released : s.arb.hold = false := by simpa using hold
      cases service : s.arb.service with
      | none => exact granted released service
      | some g =>
        by_cases same : g.entry = e
        · exact joined g released service same
        · exact (waits (.inr ⟨g, service, same⟩)).1
  refine ⟨startHead h (served r s), startHead_request adm names active state ready, every.position, every.results, every.other,
    every.samplerOther, every.compOther, by simpa using moved.steps, by simpa using moved.fmap, moved.cu, every.store,
    by simpa [keepsPorts] using moved.keepsPorts, by simpa [keepsBase] using moved.keepsBase, by simpa using moved.entries,
    every.hold, by simpa using moved.blends, fun blocked => (waits blocked).2, fun released none => ?_,
    fun g released some same => ?_⟩
  · have enters := grants released none
    have base := (startEntry_moves h e (startQueued h i (served r s))).base
    have doses : entryDose (startQueued h i (served r s)) e 1 = entryDose s e 1 :=
      entryDose_congr (by simp) (by simp) (by simp) e 1
    obtain ⟨dose, one, two, three, rinse⟩ := startEntry_dosing h e on
    have slot {f : Fn} (others : ∀ x, f ≠ .head h x) : ((startHead h (served r s)).slots.get f).map Slot.value =
        slotValue (startEntry h e (startQueued h i (served r s))) f := slotValue_congr (enters.slots f others)
    rw [doses] at dose one two three rinse
    refine ⟨by rw [enters.seq], by rw [enters.seq, base]; simp, ?_, by rw [enters.dose, dose], (slot (by simp)).trans one,
      (slot (by simp)).trans two, (slot (by simp)).trans three, (slot (by simp)).trans rinse, fun unnamed => ?_,
      fun k q seg named loaded first => ?_, ?_⟩
    · rw [enters.arb, startEntry_arb]
      simp
    · obtain ⟨cdr, values⟩ := startEntry_of_no_program h (s := startQueued h i (served r s)) (e := e) (by simpa using unnamed)
      obtain ⟨force, disk, arm⟩ := values on
      exact ⟨by rw [enters.cdr, cdr]; simp, (slot (by simp)).trans force, (slot (by simp)).trans disk,
        (slot (by simp)).trans (by simpa using arm)⟩
    · obtain ⟨cdr, values⟩ := startEntry_of_program h (s := startQueued h i (served r s)) (e := e) (by simpa using named)
        (by simpa using loaded) first
      obtain ⟨force, disk, arm⟩ := values on
      exact ⟨by rw [enters.cdr, cdr]; simp [startedRun], (slot (by simp)).trans (by simpa using force),
        (slot (by simp)).trans (by simpa using disk), (slot (by simp)).trans (by simpa using arm)⟩
    · rw [enters.mgmt, startEntry_mgmt]
      rfl
  · have enters := joins g released some same
    have doses : entryDose (startQueued h i (served r s)) g.entry (holderCount (g.holders.set h true)) =
        entryDose s e (holderCount (g.holders.set h true)) := by
      rw [same]
      exact entryDose_congr (by simp) (by simp) (by simp) e _
    refine ⟨by rw [enters.seq], ?_, ?_, ?_, fun f mem => ?_, ?_⟩
    · rw [enters.arb, joinService_eq]
      simp
    · rw [enters.dose, joinService_eq, doses, writeDosing_dose]
      exact (queueEvent_active ..).trans on
    · rw [enters.cdr, joinService_eq]
      simp
    · have apart : f ∉ dosingFns ∧ ∀ x, f ≠ .head h x := by
        simp only [List.mem_cons, List.not_mem_nil, or_false] at mem
        rcases mem with rfl | rfl | rfl <;> simp [dosingFns]
      rw [enters.slots f apart.2, joinService_eq, writeDosing_slot_of_not_mem _ _ apart.1]
      simp
    · rw [enters.mgmt, joinService_eq, writeDosing_mgmt, same]
      apply queueEvent_mgmt_congr <;> rfl

end Sys2Proof.Machine


/-! ## The actions of a taken source (R22, R23, R146, R147) -/

namespace Sys2Proof.Machine

/-! PAUSE (R22). -/

theorem pauseHead_seq_of_ne {h k : Head} (s : State) (other : k ≠ h) : (pauseHead h s).seq k = s.seq k :=
  State.seq_setSeq_of_ne _ _ other

theorem pauseHead_seq_congr {h : Head} {s t : State} (seq : t.seq h = s.seq h) (base : t.base = s.base) :
    (pauseHead h t).seq h = (pauseHead h s).seq h := by
  simp only [pauseHead, State.seq_setSeq_same, seq, base]

theorem pauseAction_seq_of_ne {h k : Head} (s : State) (other : k ≠ h) : (pauseAction h s).seq k = s.seq k := by
  unfold pauseAction
  split
  · exact pauseHead_seq_of_ne s other
  · rfl

theorem pauseAction_of_polishing {h : Head} {s : State} (polishing : (s.seq h).state = .polishing) :
    pauseAction h s = pauseHead h s := if_pos polishing

theorem pauseAction_of_not_polishing {h : Head} {s : State} (still : (s.seq h).state ≠ .polishing) : pauseAction h s = s :=
  if_neg still

theorem pauseAction_only (h : Head) (s : State) : { pauseAction h s with seqs := s.seqs } = s := by
  unfold pauseAction
  split <;> rfl

@[simp] theorem pauseAction_base (h : Head) (s : State) : (pauseAction h s).base = s.base := (pauseAction_moves h s).base

/-- PAUSE of both heads treats each as PAUSE of that head (R147). -/
theorem pauseBoth_seq (h : Head) (s : State) :
    (pauseAction .b (pauseAction .a s)).seq h = (pauseAction h s).seq h := by
  cases h with
  | a => exact pauseAction_seq_of_ne _ (by decide)
  | b =>
    have seq : (pauseAction .a s).seq .b = s.seq .b := pauseAction_seq_of_ne s (by decide)
    by_cases polishing : (s.seq .b).state = .polishing
    · rw [pauseAction_of_polishing polishing, pauseAction_of_polishing (by rw [seq, polishing])]
      exact pauseHead_seq_congr seq (pauseAction_base .a s)
    · rw [pauseAction_of_not_polishing polishing, pauseAction_of_not_polishing (by rw [seq]; exact polishing), seq]

theorem applyAction_pause_head {k : SourceId} {h : Head} {s : State} (action : (s.source k).action = .pause)
    (scope : scopeHead k (s.source k).data = some h) : applyAction k s = pauseAction h s := by
  simp only [applyAction, action, scope]

theorem applyAction_pause_station {k : SourceId} {s : State} (action : (s.source k).action = .pause)
    (scope : scopeHead k (s.source k).data = none) : applyAction k s = pauseAction .b (pauseAction .a s) := by
  simp only [applyAction, action, scope]

theorem applyAction_hold_head {k : SourceId} {h : Head} {s : State} (action : (s.source k).action = .hold)
    (scope : scopeHead k (s.source k).data = some h) : applyAction k s = holdAction h s := by
  simp only [applyAction, action, scope]

theorem applyAction_hold_station {k : SourceId} {s : State} (action : (s.source k).action = .hold)
    (scope : scopeHead k (s.source k).data = none) : applyAction k s = holdAction .b (holdAction .a (beginHold s)) := by
  simp only [applyAction, action, scope]

theorem applyAction_still {k : SourceId} {s : State} (action : (s.source k).action = .note ∨ (s.source k).action = .reset) :
    applyAction k s = s := by
  rcases action with action | action <;> simp only [applyAction, action]

/-! HOLD of one head (R23). -/

@[simp] theorem releasePad_hold (h : Head) (s : State) : (releasePad h s).arb.hold = s.arb.hold := by
  unfold releasePad
  split
  · rfl
  · split
    · dsimp only
      split
      · unfold doseEntry
        rw [writeDosing_arb]
        rfl
      · split
        · rw [grantWaiting_arb, startEntry_arb]
          rfl
        · have kept := congrArg (fun t => t.arb.hold)
            (writeIdleValues_only (stopProgram (s.setArb { s.arb with service := none })))
          exact kept
    · rfl

@[simp] theorem leavePad_hold (h : Head) (s : State) : (leavePad h s).arb.hold = s.arb.hold := by
  unfold leavePad
  split
  · rfl
  · exact releasePad_hold h s

/-- What the HOLD action keeps of the state in which the head has left the pad. -/
theorem holdAction_leaves {h : Head} {s : State} (inStep : (s.seq h).state.inStep = true) :
    LeftBy h (leavePad h s) (holdAction h s) ∧ (holdAction h s).mgmt = (leavePad h s).mgmt ∧
      (holdAction h s).store = (leavePad h s).store := by
  rw [holdAction_of_inStep inStep]
  refine ⟨⟨?_, ?_, ?_, ?_, ?_, ?_, fun f others => ?_⟩, ?_, ?_⟩
  · simp [writeHoldPressures]
  · simp [writeHoldPressures]
  · simp [writeHoldPressures]
  · rw [writeHoldPressures, commandAll_seq_of_ne _ _ h.other_ne, State.seq_setSeq_other]
  · simp [writeHoldPressures]
  · simp [writeHoldPressures]
  · rw [writeHoldPressures, commandAll_slot_of_ne _ _ others, State.setSeq_slots]
  · simp [writeHoldPressures]
  · simp [writeHoldPressures]

theorem holdAction_field {α : Type} (f : State → α) {h : Head} {s : State}
    (held : (s.seq h).state.inStep = true → f (holdAction h s) = f s) : f (holdAction h s) = f s := by
  cases inStep : (s.seq h).state.inStep with
  | false => rw [holdAction_of_not_inStep inStep]
  | true => exact held inStep

@[simp] theorem holdAction_store (h : Head) (s : State) : (holdAction h s).store = s.store :=
  holdAction_field State.store fun inStep => (holdAction_leaves inStep).2.2.trans (leavePad_store h s)

@[simp] theorem holdAction_hold (h : Head) (s : State) : (holdAction h s).arb.hold = s.arb.hold :=
  holdAction_field (fun t => t.arb.hold) fun inStep => by rw [(holdAction_leaves inStep).1.arb, leavePad_hold]

/-- The head that is held (R23). -/
theorem holdAction_held {h : Head} {s : State} (inStep : (s.seq h).state.inStep = true) :
    ((holdAction h s).seq h).state = .hold ∧ ((holdAction h s).seq h).timer = .stopped ∧
    ((holdAction h s).seq h).gap = none ∧
    ∀ x, ((holdAction h s).seq h).commanded.get x = some (s.lim.areas.get x).hold := by
  have lim : ((leavePad h s).setSeq h { closeInterval s.base.time (stopTimers (s.seq h)) with state := .hold }).lim = s.lim :=
    (leavePad_moves h s).lim
  rw [holdAction_seq_of_inStep inStep, lim]
  exact ⟨rfl, rfl, rfl, fun x => by simp [holdPressures]⟩

/-- A head that waits, or that holds nothing, leaves the pad as it is (R74, R76). -/
theorem leavePad_of_free {h : Head} {s : State}
    (free : (s.seq h).state = .waitPad ∨ ∀ g, s.arb.service = some g → g.holders.get h = false) :
    leavePad h s = s ∨ leavePad h s = withdraw h s := by
  unfold leavePad
  split
  · exact .inr rfl
  · rename_i still
    rcases free with waits | free
    · exact absurd waits still
    · exact .inl (releasePad_of_not_holding free)

theorem eq_other_of_ne {w h : Head} (ne : w ≠ h) : w = h.other := by
  cases h <;> cases w <;> simp_all [Head.other]

/-- The other head after this one has left the pad: as it was, or polishing on the pad that came to it (R74). -/
theorem leavePad_seq_other (h : Head) (s : State) :
    (leavePad h s).seq h.other = s.seq h.other ∨
      ((s.seq h.other).state = .waitPad ∧ ((leavePad h s).seq h.other).state = .polishing ∧
        ∃ g, s.arb.service = some g ∧ g.holders.get h = true ∧ g.holders.get h.other = false ∧
          (s.arb.waiting.map Prod.fst).head? = some h.other ∧
          (leavePad h s).arb.service.map Grant.holders = some (Pair.set ⟨false, false⟩ h.other true)) := by
  by_cases free : (s.seq h).state = .waitPad ∨ ∀ g, s.arb.service = some g → g.holders.get h = false
  · rcases leavePad_of_free free with same | withdrawn
    · exact .inl (by rw [same])
    · exact .inl (by rw [withdrawn]; rfl)
  · simp only [not_or, not_forall, Bool.not_eq_false] at free
    obtain ⟨still, g, granted, holds⟩ := free
    rw [show leavePad h s = releasePad h s from if_neg still]
    cases alone : g.holders.get h.other with
    | true =>
      rw [releasePad_of_other granted holds alone]
      exact .inl (State.seq_of_seqs (doseEntry_seqs _ _ _) _)
    | false =>
      cases waiting : s.arb.waiting with
      | nil =>
        rw [releasePad_of_last granted holds alone waiting]
        exact .inl (State.seq_of_seqs (writeIdleValues_seqs _) _)
      | cons first rest =>
        obtain ⟨w, e⟩ := first
        rw [releasePad_of_waiting granted holds alone waiting]
        generalize is : stopProgram (s.setArb { s.arb with service := none, waiting := rest }) = u
        have entered : (startEntry w e u).seq = s.seq := by
          funext k
          rw [State.seq_of_seqs (startEntry_seqs w e u), ← is]
          rfl
        by_cases own : w = h
        · subst own
          exact .inl ((grantWaiting_other w _).1.trans (congrFun entered _))
        · obtain rfl : w = h.other := eq_other_of_ne own
          by_cases waits : (s.seq h.other).state = .waitPad
          · rw [grantWaiting_of_waiting (by rw [entered, waits])]
            cases step : (startEntry h.other e u).currentStep h.other with
            | none => exact .inl (by rw [polishingEntry_of_no_step step, entered])
            | some st =>
              refine .inr ⟨waits, by rw [polishingEntry_seq step], g, granted, holds, alone, rfl, ?_⟩
              rw [polishingEntry_arb, startEntry_arb]
              rfl
          · exact .inl (by rw [grantWaiting_of_not_waiting (by rw [entered]; exact waits), entered])

/-- The other head after a HOLD of this one (R23, R74). -/
theorem holdAction_seq_other (h : Head) (s : State) :
    (holdAction h s).seq h.other = s.seq h.other ∨
      ((s.seq h.other).state = .waitPad ∧ ((holdAction h s).seq h.other).state = .polishing ∧
        ∃ g, s.arb.service = some g ∧ g.holders.get h = true ∧ g.holders.get h.other = false ∧
          (s.arb.waiting.map Prod.fst).head? = some h.other ∧
          (holdAction h s).arb.service.map Grant.holders = some (Pair.set ⟨false, false⟩ h.other true)) := by
  cases inStep : (s.seq h).state.inStep with
  | false => exact .inl (by rw [holdAction_of_not_inStep inStep])
  | true =>
    have left := (holdAction_leaves inStep).1
    rw [left.other, left.arb]
    exact leavePad_seq_other h s

theorem holdAction_inStep_other {h : Head} {s : State} (inStep : (s.seq h.other).state.inStep = true) :
    ((holdAction h s).seq h.other).state.inStep = true := by
  rcases holdAction_seq_other h s with same | ⟨-, polishing, -⟩
  · rw [same, inStep]
  · rw [polishing]
    rfl

/-- A HOLD of a head that waits or holds nothing leaves the pad as it was (R74). -/
theorem holdAction_of_free {h : Head} {s : State}
    (free : (s.seq h).state = .waitPad ∨ ∀ g, s.arb.service = some g → g.holders.get h = false) :
    (holdAction h s).arb.service = s.arb.service ∧ (holdAction h s).seq h.other = s.seq h.other ∧
    (holdAction h s).dose = s.dose ∧ (holdAction h s).cdr = s.cdr ∧ (holdAction h s).mgmt = s.mgmt := by
  cases inStep : (s.seq h).state.inStep with
  | false => rw [holdAction_of_not_inStep inStep]; exact ⟨rfl, rfl, rfl, rfl, rfl⟩
  | true =>
    obtain ⟨left, mgmt, -⟩ := holdAction_leaves inStep
    rw [left.arb, left.other, left.dose, left.cdr, mgmt]
    rcases leavePad_of_free free with same | withdrawn
    · rw [same]
      exact ⟨rfl, rfl, rfl, rfl, rfl⟩
    · rw [withdrawn]
      exact ⟨rfl, rfl, rfl, rfl, rfl⟩

theorem holdAction_of_no_service {h : Head} {s : State} (none : s.arb.service = none) :
    (holdAction h s).arb.service = .none ∧ (holdAction h s).cdr = s.cdr ∧ (holdAction h s).mgmt = s.mgmt := by
  obtain ⟨service, -, -, cdr, mgmt⟩ := holdAction_of_free (h := h) (s := s) (.inr fun g granted => by simp [none] at granted)
  exact ⟨service.trans none, cdr, mgmt⟩

/-! HOLD of the whole station (R23, R78). -/

@[simp] theorem beginHold_hold (s : State) : (beginHold s).arb.hold = true := by
  unfold beginHold
  split
  · rename_i on
    rw [← on]
    have kept := congrArg (fun t => t.arb.hold) (writeHoldValues_only s)
    exact kept
  · rw [queueEvent_arb]
    have kept := congrArg (fun t => t.arb.hold)
      (writeHoldValues_only (stopProgram (s.setArb { s.arb with service := none, hold := true })))
    exact kept

@[simp] theorem beginHold_store (s : State) : (beginHold s).store = s.store := by
  unfold beginHold
  split
  · have kept := congrArg State.store (writeHoldValues_only s)
    exact kept
  · rw [queueEvent_store]
    have kept := congrArg State.store
      (writeHoldValues_only (stopProgram (s.setArb { s.arb with service := none, hold := true })))
    exact kept

theorem beginHold_of_free {s : State} (free : s.arb.hold = false) :
    (beginHold s).arb.service = none ∧ (beginHold s).cdr.run = none ∧
    (beginHold s).mgmt = (queueEvent .stationHold none [] s).mgmt := by
  have only := writeHoldValues_only (stopProgram (s.setArb { s.arb with service := none, hold := true }))
  have off : beginHold s = queueEvent .stationHold none []
      (writeHoldValues (stopProgram (s.setArb { s.arb with service := none, hold := true }))) := by simp [beginHold, free]
  rw [off, queueEvent_arb, queueEvent_cdr]
  refine ⟨?_, ?_, queueEvent_mgmt_congr ?_ ?_ _ _ _⟩
  · have kept := congrArg (fun t => t.arb.service) only
    exact kept
  · have kept := congrArg (fun t => t.cdr.run) only
    exact kept
  · have kept := congrArg State.mgmt only
    exact kept
  · have kept := congrArg State.base only
    exact kept

/-- HOLD of both heads treats each that is in a step, and moves no other (R147). -/
theorem holdBoth_inStep {h : Head} {s : State} (inStep : (s.seq h).state.inStep = true) :
    ((holdAction .b (holdAction .a s)).seq h).state = .hold ∧
    ((holdAction .b (holdAction .a s)).seq h).timer = .stopped ∧ ((holdAction .b (holdAction .a s)).seq h).gap = none ∧
    ∀ x, ((holdAction .b (holdAction .a s)).seq h).commanded.get x = some (s.lim.areas.get x).hold := by
  cases h with
  | a =>
    have held := holdAction_held inStep
    rw [holdAction_seq_of_state (h := .a) (k := .b) (by decide) (by rw [held.1]; decide)]
    exact held
  | b =>
    have held := holdAction_held (h := .b) (s := holdAction .a s) (holdAction_inStep_other (h := .a) inStep)
    rw [(holdAction_moves .a s).lim] at held
    exact held

theorem holdAction_seq_of_not_inStep {h k : Head} {s : State} (out : (s.seq h).state.inStep = false) :
    (holdAction k s).seq h = s.seq h := by
  by_cases same : h = k
  · subst same
    rw [holdAction_of_not_inStep out]
  · exact holdAction_seq_of_state same fun waits => by simp [waits, HeadState.inStep] at out

theorem holdBoth_of_not_inStep {h : Head} {s : State} (out : (s.seq h).state.inStep = false) :
    (holdAction .b (holdAction .a s)).seq h = s.seq h := by
  have first := holdAction_seq_of_not_inStep (k := .a) out
  rw [holdAction_seq_of_not_inStep (k := .b) (by rw [first, out]), first]

theorem not_inStep_iff (x : HeadState) : x.inStep = false ↔ x ∉ [HeadState.waitPad, .polishing, .paused] := by
  cases x <;> decide

/-- What a HOLD action does to the heads of its scope, whatever the scope. -/
theorem applyAction_hold_scope {k : SourceId} {s : State} (action : (s.source k).action = .hold) {h : Head}
    (scope : scopeHead k (s.source k).data = some h ∨ scopeHead k (s.source k).data = none) :
    ((s.seq h).state ∈ [HeadState.waitPad, .polishing, .paused] →
      ((applyAction k s).seq h).state = .hold ∧ ((applyAction k s).seq h).timer = .stopped ∧
      ((applyAction k s).seq h).gap = none ∧
      ∀ x, ((applyAction k s).seq h).commanded.get x = some (s.lim.areas.get x).hold) ∧
    ((s.seq h).state ∉ [HeadState.waitPad, .polishing, .paused] → (applyAction k s).seq h = s.seq h) := by
  rw [← not_inStep_iff, ← inStep_iff]
  rcases scope with scope | scope
  · rw [applyAction_hold_head action scope]
    exact ⟨holdAction_held, holdAction_seq_of_not_inStep⟩
  · rw [applyAction_hold_station action scope]
    have seq : (beginHold s).seq h = s.seq h := State.seq_of_seqs (beginHold_seqs s) h
    refine ⟨fun inStep => ?_, fun out => ?_⟩
    · have held := holdBoth_inStep (h := h) (s := beginHold s) (by rw [seq, inStep])
      rw [(beginHold_moves s).lim] at held
      exact held
    · rw [holdBoth_of_not_inStep (by rw [seq, out]), seq]

/-- What a PAUSE action does to a head. -/
theorem applyAction_pause {k : SourceId} {s : State} (action : (s.source k).action = .pause) :
    (∀ h, (scopeHead k (s.source k).data = some h ∨ scopeHead k (s.source k).data = none) →
      (s.seq h).state = .polishing → (applyAction k s).seq h = (pauseHead h s).seq h) ∧
    (∀ h, (scopeHead k (s.source k).data = some h.other ∨ (s.seq h).state ≠ .polishing) →
      (applyAction k s).seq h = s.seq h) ∧
    { applyAction k s with seqs := s.seqs } = s := by
  cases scope : scopeHead k (s.source k).data with
  | none =>
    rw [applyAction_pause_station action scope]
    refine ⟨fun h _ polishing => ?_, fun h still => ?_, ?_⟩
    · rw [pauseBoth_seq, pauseAction_of_polishing polishing]
    · rcases still with elsewhere | still
      · cases elsewhere
      · rw [pauseBoth_seq, pauseAction_of_not_polishing still]
    · have second := pauseAction_only .b (pauseAction .a s)
      have first := pauseAction_only .a s
      have both := congrArg (fun t : State => { t with seqs := s.seqs }) second
      exact both.trans first
  | some w =>
    rw [applyAction_pause_head action scope]
    refine ⟨fun h inScope polishing => ?_, fun h out => ?_, pauseAction_only w s⟩
    · obtain rfl : w = h := by simpa using inScope
      rw [pauseAction_of_polishing polishing]
    · rcases out with elsewhere | still
      · obtain rfl : w = h.other := by simpa using elsewhere
        exact pauseAction_seq_of_ne s (Head.other_ne h).symm
      · by_cases same : h = w
        · subst same
          rw [pauseAction_of_not_polishing still]
        · exact pauseAction_seq_of_ne s same

theorem applyAction_hold_store {k : SourceId} {s : State} (action : (s.source k).action = .hold) :
    (applyAction k s).store = s.store := by
  cases scope : scopeHead k (s.source k).data with
  | none => rw [applyAction_hold_station action scope, holdAction_store, holdAction_store, beginHold_store]
  | some h => rw [applyAction_hold_head action scope, holdAction_store]

/-- Settles O47: an action treats the heads of its scope one by one. -/
theorem actionsMoveTheHeads : Obligations.ActionsMoveTheHeads := by
  refine fun s k => ⟨applyAction_still, applyAction_pause, fun action => ⟨fun h scope => applyAction_hold_scope action scope,
    fun h scope => ?head, fun scope => ?station, ?frame⟩⟩
  case head =>
    rw [applyAction_hold_head action scope, ← not_inStep_iff]
    have other := holdAction_seq_other h s
    refine ⟨holdAction_hold h s, fun still => ?_, fun waits => ?_, holdAction_of_not_inStep, holdAction_of_free⟩
    · rcases other with same | ⟨waits, -⟩
      · exact same
      · exact absurd waits still
    · rcases other with same | ⟨-, polishes⟩
      · exact .inl same
      · exact .inr polishes
  case station =>
    rw [applyAction_hold_station action scope]
    refine ⟨by simp, fun off => ?_⟩
    obtain ⟨service, run, mgmt⟩ := beginHold_of_free off
    obtain ⟨serviceA, cdrA, mgmtA⟩ := holdAction_of_no_service (h := .a) service
    obtain ⟨serviceB, cdrB, mgmtB⟩ := holdAction_of_no_service (h := .b) serviceA
    exact ⟨serviceB, by rw [cdrB, cdrA, run], by rw [mgmtB, mgmtA, mgmt]⟩
  case frame =>
    have moved := applyAction_moves k s
    exact ⟨moved.cu, moved.steps, applyAction_hold_store action, moved.fmap, moved.keepsPorts, moved.keepsBase⟩

end Sys2Proof.Machine


/-! ## The taking run (R140 to R145) -/

namespace Sys2Proof.Machine

/-! The source that is taken next (R143). -/

theorem sourceNumber_rises : SourceId.all.Pairwise (fun j k => sourceNumber j < sourceNumber k) := by decide

/-- The source chosen of a list is the most severe one, and of equals the first. -/
theorem foldl_moreSevere_chosen {s : State} {best k : SourceId} {ks : List SourceId}
    (rises : (best :: ks).Pairwise (fun i j => sourceNumber i < sourceNumber j))
    (chosen : ks.foldl (moreSevere s) (some best) = some k) :
    ∀ j ∈ best :: ks, (s.source j).severity < (s.source k).severity ∨
      ((s.source j).severity = (s.source k).severity ∧ sourceNumber k ≤ sourceNumber j) := by
  induction ks generalizing best with
  | nil =>
    intro j mem
    cases Option.some.inj chosen
    rw [List.mem_singleton.mp mem]
    exact .inr ⟨rfl, Nat.le_refl _⟩
  | cons i ks ih =>
    obtain ⟨first, later⟩ := List.pairwise_cons.mp rises
    rw [List.foldl_cons] at chosen
    by_cases more : (s.source best).severity < (s.source i).severity
    · rw [show moreSevere s (some best) i = some i from if_pos more] at chosen
      have known := ih later chosen
      have atI := known i List.mem_cons_self
      intro j mem
      rcases List.mem_cons.mp mem with rfl | mem
      · left; omega
      · exact known j mem
    · rw [show moreSevere s (some best) i = some best from if_neg more] at chosen
      have shorter : (best :: ks).Pairwise (fun i j => sourceNumber i < sourceNumber j) :=
        List.pairwise_cons.mpr ⟨fun j mem => first j (List.mem_cons_of_mem _ mem), (List.pairwise_cons.mp later).2⟩
      have known := ih shorter chosen
      have atBest := known best List.mem_cons_self
      have below := first i List.mem_cons_self
      intro j mem
      rcases List.mem_cons.mp mem with rfl | mem
      · exact atBest
      · rcases List.mem_cons.mp mem with rfl | mem
        · omega
        · exact known j (List.mem_cons_of_mem _ mem)

theorem takeable_iff {s : State} {k : SourceId} : takeable s k = true ↔
    (s.source k).enabled = true ∧ (s.source k).state = .pending ∧ s.cu.level < (s.source k).severity := by
  simp [takeable, and_assoc]

theorem nextTaken_most_severe {s : State} {k : SourceId} (next : nextTaken s = some k) :
    ∀ j, takeable s j = true → (s.source j).severity < (s.source k).severity ∨
      ((s.source j).severity = (s.source k).severity ∧ sourceNumber k ≤ sourceNumber j) := by
  intro j may
  have mem : j ∈ SourceId.all.filter (takeable s) := List.mem_filter.mpr ⟨SourceId.mem_all j, may⟩
  have rises := sourceNumber_rises.filter (takeable s)
  unfold nextTaken at next
  cases candidates : SourceId.all.filter (takeable s) with
  | nil => rw [candidates] at mem; cases mem
  | cons best ks =>
    rw [candidates] at mem next rises
    exact foldl_moreSevere_chosen rises next j mem

theorem foldl_moreSevere_isSome (s : State) (best : SourceId) (ks : List SourceId) :
    ∃ k, ks.foldl (moreSevere s) (some best) = some k := by
  induction ks generalizing best with
  | nil => exact ⟨best, rfl⟩
  | cons i ks ih =>
    rw [List.foldl_cons]
    unfold moreSevere
    dsimp only
    split <;> exact ih _

/-- Nothing is taken exactly when no source may be. -/
theorem nextTaken_eq_none {s : State} : nextTaken s = none ↔ ∀ k, takeable s k = false := by
  constructor
  · intro next k
    by_contra may
    have mem : k ∈ SourceId.all.filter (takeable s) := List.mem_filter.mpr ⟨SourceId.mem_all k, by simpa using may⟩
    unfold nextTaken at next
    cases candidates : SourceId.all.filter (takeable s) with
    | nil => rw [candidates] at mem; cases mem
    | cons best ks =>
      obtain ⟨chosen, some⟩ := foldl_moreSevere_isSome s best ks
      rw [candidates] at next
      exact absurd (next.symm.trans some) (by simp)
  · intro nobody
    cases next : nextTaken s with
    | none => rfl
    | some k => exact absurd (takeable_of_nextTaken next) (by simp [nobody k])

/-! The taking (R143, R145). -/

@[simp] theorem raiseLevel_level (k : SourceId) (s : State) : (raiseLevel k s).cu.level = (s.source k).severity := rfl

@[simp] theorem raiseLevel_stack (k : SourceId) (s : State) : (raiseLevel k s).cu.stack = s.cu.stack ++ [s.cu.level] := rfl

@[simp] theorem raiseLevel_source_same (k : SourceId) (s : State) :
    (raiseLevel k s).source k = { s.source k with state := .served } := State.source_setSource_same ..

theorem raiseLevel_source_of_ne {j k : SourceId} (s : State) (other : j ≠ k) : (raiseLevel k s).source j = s.source j :=
  State.source_setSource_of_ne _ _ other

theorem takeSource_cu (k : SourceId) (s : State) : (takeSource k s).cu = (raiseLevel k s).cu := by
  unfold takeSource
  dsimp only
  split
  · rfl
  · exact queueEvent_cu ..

theorem takeSource_source (j k : SourceId) (s : State) : (takeSource k s).source j = (raiseLevel k s).source j := by
  unfold State.source
  rw [takeSource_cu]

theorem takeSource_mgmt (k : SourceId) (s : State) :
    (takeSource k s).mgmt = (if (s.source k).action = .reset ∧ s.mgmt.mode = .active then s
      else queueEvent .conditionTaken (scopeHead k (s.source k).data) (takenData k (s.source k) s.cu.level) s).mgmt := by
  have resets : resetsStation s (s.source k) = true ↔ (s.source k).action = .reset ∧ s.mgmt.mode = .active := by
    simp [resetsStation, State.active]
  simp only [takeSource, resets]
  split
  · rfl
  · apply queueEvent_mgmt_congr <;> rfl

@[simp] theorem takeSource_active (k : SourceId) (s : State) : (takeSource k s).active = s.active := by
  unfold takeSource
  dsimp only
  split
  · rfl
  · exact queueEvent_active ..

/-! A taking run ends with nothing left to take (R143). -/

theorem nextTaken_congr {s t : State} (cu : t.cu = s.cu) : nextTaken t = nextTaken s := by
  have may : takeable t = takeable s := by
    funext k
    unfold takeable State.source
    rw [cu]
  have better : moreSevere t = moreSevere s := by
    funext best k
    unfold moreSevere State.source
    rw [cu]
  rw [nextTaken, nextTaken, may, better]

/-- The pending sources stand in a list that a taking shortens. -/
theorem takeSource_pending {k : SourceId} {s : State} {l : List SourceId}
    (pending : ∀ j, (s.source j).state = .pending → j ∈ l) :
    ∀ j, ((takeSource k s).source j).state = .pending → j ∈ l.erase k := by
  intro j waits
  rw [takeSource_source] at waits
  by_cases same : j = k
  · subst same
    rw [raiseLevel_source_same] at waits
    cases waits
  · rw [raiseLevel_source_of_ne s same] at waits
    exact (List.mem_erase_of_ne same).mpr (pending j waits)

/-- A run with fuel for each pending source leaves nothing to take: its actions keep the condition unit, and a reset,
which ends it, leaves nothing either. -/
theorem takingRunWith_exhausts {act reset : SourceId → State → State} {Q : State → Prop}
    (takes : ∀ k t, Q t → Q (takeSource k t)) (acts : ∀ k t, Q t → Q (act k t)) (keeps : ∀ k t, (act k t).cu = t.cu)
    (resets : ∀ k t, Q t → resetsStation t (t.source k) = true → nextTaken (reset k (takeSource k t)) = none)
    {fuel : Nat} {s : State} {l : List SourceId} (q : Q s) (pending : ∀ j, (s.source j).state = .pending → j ∈ l)
    (enough : l.length ≤ fuel) : nextTaken (takingRunWith act reset fuel s) = none := by
  induction fuel generalizing s l with
  | zero =>
    refine nextTaken_eq_none.mpr fun k => Bool.not_eq_true _ ▸ fun may => ?_
    have mem := pending k (takeable_iff.mp may).2.1
    rw [List.eq_nil_of_length_eq_zero (Nat.le_zero.mp enough)] at mem
    cases mem
  | succ fuel ih =>
    cases next : nextTaken s with
    | none => simp only [takingRunWith, next]
    | some k =>
      have mem := pending k (takeable_iff.mp (takeable_of_nextTaken next)).2.1
      simp only [takingRunWith, next]
      by_cases reset : resetsStation s (s.source k) = true
      · rw [if_pos reset]
        exact resets k s q reset
      · rw [if_neg reset]
        refine ih (l := l.erase k) (acts k _ (takes k s q)) (fun j waits => takeSource_pending pending j ?_) ?_
        · rwa [State.source, keeps] at waits
        · rw [List.length_erase_of_mem mem]
          omega

theorem takingRunTransparent_exhausts {s : State} (transparent : s.active = false) :
    nextTaken (takingRunTransparent s) = none :=
  takingRunWith_exhausts (Q := fun t => t.active = false) (l := SourceId.all)
    (fun k t off => (takeSource_active k t).trans off) (fun k t off => (applyAction_moves k t).active.trans off)
    (fun k t => (applyAction_moves k t).cu) (fun k t off resets => by simp [resetsStation, off] at resets) transparent
    (fun j _ => SourceId.mem_all j) (by decide)

/-- The station is TRANSPARENT with nothing to take: what a station reset leaves, item by item. -/
def Calm (s : State) : Prop := s.active = false ∧ nextTaken s = none

theorem Calm.of_eq {s t : State} (calm : Calm s) (cu : t.cu = s.cu) (active : t.active = s.active) : Calm t :=
  ⟨active.trans calm.1, (nextTaken_congr cu).trans calm.2⟩

theorem Calm.setCdr {s : State} (calm : Calm s) (x : Conditioner) : Calm { s with cdr := x } := calm.of_eq rfl rfl

/-- A source write that makes nothing pending keeps the calm. -/
theorem Calm.setSource {s : State} (calm : Calm s) {k : SourceId} {x : Source} (enabled : x.enabled = (s.source k).enabled)
    (severity : x.severity = (s.source k).severity) (state : x.state = (s.source k).state ∨ x.state = .idle) :
    Calm (s.setSource k x) := by
  refine ⟨calm.1, nextTaken_eq_none.mpr fun j => ?_⟩
  have before := nextTaken_eq_none.mp calm.2 j
  by_cases same : j = k
  · subst same
    rcases state with state | state
    · simpa [takeable, enabled, severity, state] using before
    · simp [takeable, state]
  · simpa [takeable, State.source_setSource_of_ne _ _ same] using before

theorem takingRunTransparent_active (s : State) : (takingRunTransparent s).active = s.active :=
  takingRunWith_induction (Q := fun t => t.active = s.active) (fun k t _ same => (takeSource_active k t).trans same)
    (fun k t same => (applyAction_moves k t).active.trans same) (fun _ _ same => same) takingFuel rfl

theorem takingRunTransparent_calm {s : State} (transparent : s.active = false) : Calm (takingRunTransparent s) :=
  ⟨(takingRunTransparent_active s).trans transparent, takingRunTransparent_exhausts transparent⟩

theorem beginPresenceWith_calm {s : State} (calm : Calm s) (k : SourceId) (d : Option SourceData) :
    Calm (beginPresenceWith takingRunTransparent k d s) := by
  unfold beginPresenceWith
  dsimp only
  split
  · exact calm
  · split
    · exact calm.setSource rfl rfl (.inl rfl)
    · exact takingRunTransparent_calm calm.1

theorem losePresence_calm {s : State} (calm : Calm s) (k : SourceId) : Calm (losePresence k s) := by
  rw [losePresence_eq]
  unfold withoutPresence
  split
  · split
    · exact calm.setSource rfl rfl (.inl rfl)
    · exact calm.setSource rfl rfl (.inr rfl)
  · exact calm.setSource rfl rfl (.inl rfl)

theorem resetItem_calm {s : State} (calm : Calm s) (cause : List (BitVec 32)) (item : ResetItem) :
    Calm (resetItem cause s item) := by
  cases item with
  | record => exact calm.of_eq (queueEvent_cu ..) (queueEvent_active ..)
  | portLoss => exact beginPresenceWith_calm calm _ _
  | padWear =>
    simp only [resetItem, evaluatePadWith]
    split
    · exact beginPresenceWith_calm (calm.setCdr _) _ _
    · split
      · exact losePresence_calm (calm.setCdr _) _
      · exact calm
  | diskWear =>
    simp only [resetItem, evaluateDiskWith]
    split
    · exact beginPresenceWith_calm (calm.setCdr _) _ _
    · split
      · exact losePresence_calm (calm.setCdr _) _
      · exact calm

theorem stationResetBlocks_source (s : State) (k : SourceId) :
    (stationResetBlocks s).source k = stationResetSource (s.source k) := PerSource.get_tabulate _ k

theorem stationReset_calm (cause : List (BitVec 32)) (s : State) : Calm (stationReset cause s) := by
  have start : Calm (stationResetBlocks s) :=
    ⟨rfl, nextTaken_eq_none.mpr fun k => by simp [takeable, stationResetBlocks_source, stationResetSource]⟩
  exact List.foldlRecOn _ _ (motive := Calm) (start.of_eq rfl rfl) fun _ calm item _ => resetItem_calm calm cause item

theorem resetAction_calm (k : SourceId) (s : State) : Calm (resetAction k s) := stationReset_calm _ s

theorem takingRun_exhausts (s : State) : nextTaken (takingRun s) = none := by
  unfold takingRun
  exact takingRunWith_exhausts (Q := fun _ => True) (l := SourceId.all) (fun _ _ _ => trivial) (fun _ _ _ => trivial)
    (fun k t => (applyAction_moves k t).cu) (fun k t _ _ => (resetAction_calm k (takeSource k t)).2) trivial
    (fun j _ => SourceId.mem_all j) (by decide)

/-! Occurrences and reports (R140, R141). -/

theorem occurrenceWith_of_idle {run : State → State} {k : SourceId} {s : State} (d : SourceData)
    (idle : (s.source k).state = .idle) :
    occurrenceWith run k d s = run (s.setSource k { s.source k with state := .pending, data := some d }) := by
  simp only [occurrenceWith, idle]

theorem occurrenceWith_of_not_idle {run : State → State} {k : SourceId} {s : State} (d : SourceData)
    (busy : (s.source k).state ≠ .idle) : occurrenceWith run k d s = s := by
  unfold occurrenceWith
  split
  · exact absurd ‹_› busy
  · rfl
  · rfl

theorem beginPresenceWith_of_real {run : State → State} {k : SourceId} {d : Option SourceData} {s : State}
    (real : (s.source k).real = true) : beginPresenceWith run k d s = s := if_pos real

theorem beginPresenceWith_of_sim {run : State → State} {k : SourceId} {d : Option SourceData} {s : State}
    (real : (s.source k).real = false) (sim : (s.source k).sim = true) :
    beginPresenceWith run k d s = s.setSource k { s.source k with real := true } := by
  simp only [beginPresenceWith, real, sim, Bool.false_eq_true, if_false, if_true]

theorem beginPresenceWith_of_absent {run : State → State} {k : SourceId} {d : Option SourceData} {s : State}
    (real : (s.source k).real = false) (sim : (s.source k).sim = false) :
    beginPresenceWith run k d s = run (s.setSource k { s.source k with real := true, state := .pending, data := d }) := by
  simp only [beginPresenceWith, real, sim, Bool.false_eq_true, if_false]

/-- Settles O46: the choice is a fold over the sources in their order, and each taking leaves one pending source fewer. -/
theorem takingRunsTakeTheMostSevere : Obligations.TakingRunsTakeTheMostSevere := by
  refine ⟨fun s k next => ?_, fun s k => ?_, takingRun_exhausts,
    fun run k d s => ⟨occurrenceWith_of_idle d, occurrenceWith_of_not_idle d⟩,
    fun run k d s => ⟨beginPresenceWith_of_real, beginPresenceWith_of_sim, beginPresenceWith_of_absent⟩,
    fun k s => ⟨fun _ => rfl, fun _ => rfl, losePresence_eq k s⟩⟩
  · obtain ⟨enabled, pending, above⟩ := takeable_iff.mp (takeable_of_nextTaken next)
    exact ⟨enabled, pending, above, nextTaken_most_severe next⟩
  · rw [takeSource_cu]
    refine ⟨rfl, rfl, (takeSource_source k k s).trans (raiseLevel_source_same k s),
      fun j other => (takeSource_source j k s).trans (raiseLevel_source_of_ne s other), takeSource_mgmt k s,
      takeSource_only k s⟩

end Sys2Proof.Machine


/-! ## Wear presence (R96, R97) -/

namespace Sys2Proof.Machine

/-! A free order is an order of the same items (log 3). -/

theorem shuffle_perm {α : Type} (fuel n : Nat) (xs : List α) : (shuffle fuel n xs).Perm xs := by
  induction fuel generalizing n xs with
  | zero => exact .refl _
  | succ fuel ih =>
    unfold shuffle
    split
    · exact .refl _
    · rename_i x picked
      obtain ⟨bound, rfl⟩ := List.getElem?_eq_some_iff.mp picked
      exact ((ih _ _).cons _).trans (List.getElem_cons_eraseIdx_perm bound)

theorem freeOrder_perm {α : Type} (s : State) (xs : List α) : (freeOrder s xs).Perm xs := shuffle_perm _ _ _

/-! What a taking run keeps of the wear flags. -/

/-- The flag of pad wear is what the live counter says (R96). -/
def PadTold (s : State) : Prop := s.cdr.padWorn = padIsWorn s

/-- The flag of disk wear is what the live counter says (R96). -/
def DiskTold (s : State) : Prop := s.cdr.diskWorn = diskIsWorn s

/-- Limits and live counters are kept, and with them the flags that agree with them. -/
structure KeepsWear (s t : State) : Prop where
  limits : t.mgmt.limits = s.mgmt.limits
  live   : t.store.live = s.store.live
  pad    : PadTold s → PadTold t
  disk   : DiskTold s → DiskTold t

theorem padIsWorn_congr {s t : State} (limits : t.mgmt.limits = s.mgmt.limits) (live : t.store.live = s.store.live) :
    padIsWorn t = padIsWorn s := by
  rw [padIsWorn, limits, live]
  rfl

theorem diskIsWorn_congr {s t : State} (limits : t.mgmt.limits = s.mgmt.limits) (live : t.store.live = s.store.live) :
    diskIsWorn t = diskIsWorn s := by
  rw [diskIsWorn, limits, live]
  rfl

namespace KeepsWear

theorem refl (s : State) : KeepsWear s s := ⟨rfl, rfl, id, id⟩

theorem trans {s t u : State} (a : KeepsWear s t) (b : KeepsWear t u) : KeepsWear s u :=
  ⟨b.limits.trans a.limits, b.live.trans a.live, b.pad ∘ a.pad, b.disk ∘ a.disk⟩

/-- The flags themselves are kept. -/
theorem of_flags {s t : State} (limits : t.mgmt.limits = s.mgmt.limits) (live : t.store.live = s.store.live)
    (pad : t.cdr.padWorn = s.cdr.padWorn) (disk : t.cdr.diskWorn = s.cdr.diskWorn) : KeepsWear s t where
  limits := limits
  live := live
  pad told := by rw [PadTold, pad, padIsWorn_congr limits live, told]
  disk told := by rw [DiskTold, disk, diskIsWorn_congr limits live, told]

theorem setCu (s : State) (x : ConditionUnit) : KeepsWear s { s with cu := x } := of_flags rfl rfl rfl rfl

end KeepsWear

theorem queueEvent_keepsWear (kind : EventKind) (head : Option Head) (data : List (BitVec 32)) (s : State) :
    KeepsWear s (queueEvent kind head data s) := by
  refine .of_flags ?_ ?_ ?_ ?_
  · exact (queueEvent_moves kind head data s).limits
  · rw [queueEvent_store]
  · rw [queueEvent_cdr]
  · rw [queueEvent_cdr]

theorem takeSource_keepsWear (k : SourceId) (s : State) : KeepsWear s (takeSource k s) := by
  unfold takeSource
  dsimp only
  split
  · exact .setCu s _
  · exact (KeepsWear.setCu s _).trans (queueEvent_keepsWear _ _ _ _)

theorem applyAction_store (k : SourceId) (s : State) : (applyAction k s).store = s.store := by
  cases action : (s.source k).action with
  | note => rw [applyAction_still (.inl action)]
  | reset => rw [applyAction_still (.inr action)]
  | hold => exact applyAction_hold_store action
  | pause =>
    have kept := congrArg State.store (applyAction_pause action).2.2
    exact kept

theorem applyAction_keepsWear (k : SourceId) (s : State) : KeepsWear s (applyAction k s) := by
  have moved := applyAction_moves k s
  refine .of_flags moved.limits (by rw [applyAction_store]) ?_ ?_
  · have kept := congrArg Conditioner.padWorn moved.cdr
    exact kept
  · have kept := congrArg Conditioner.diskWorn moved.cdr
    exact kept

theorem takingRunTransparent_keepsWear (s : State) : KeepsWear s (takingRunTransparent s) :=
  takingRunWith_induction (Q := KeepsWear s) (fun k t _ kept => kept.trans (takeSource_keepsWear k t))
    (fun k t kept => kept.trans (applyAction_keepsWear k t)) (fun _ _ kept => kept) takingFuel (.refl s)

section Run

variable {run : State → State} (runs : ∀ s, KeepsWear s (run s))
include runs

theorem beginPresenceWith_keepsWear (k : SourceId) (d : Option SourceData) (s : State) :
    KeepsWear s (beginPresenceWith run k d s) :=
  beginPresenceWith_induction (Q := KeepsWear s) (fun t kept => kept.trans (runs t))
    (fun t x kept => kept.trans (.setCu t x)) k d (.refl s)

/-- The evaluation of pad wear makes its flag agree, and keeps an agreement of the disk's (R96). -/
theorem evaluatePadWith_tells (s : State) :
    (evaluatePadWith run s).mgmt.limits = s.mgmt.limits ∧ (evaluatePadWith run s).store.live = s.store.live ∧
    PadTold (evaluatePadWith run s) ∧ (DiskTold s → DiskTold (evaluatePadWith run s)) := by
  unfold evaluatePadWith
  dsimp only
  split
  · have kept := beginPresenceWith_keepsWear runs .padWorn (some (.wear s.store.live.pad))
      { s with cdr := { s.cdr with padWorn := padIsWorn s } }
    exact ⟨kept.limits, kept.live, kept.pad rfl, kept.disk⟩
  · split
    · rw [losePresence_eq]
      exact ⟨rfl, rfl, rfl, id⟩
    · refine ⟨rfl, rfl, ?_, id⟩
      unfold PadTold
      cases flag : s.cdr.padWorn <;> cases worn : padIsWorn s <;> simp_all

theorem evaluateDiskWith_tells (s : State) :
    (evaluateDiskWith run s).mgmt.limits = s.mgmt.limits ∧ (evaluateDiskWith run s).store.live = s.store.live ∧
    DiskTold (evaluateDiskWith run s) ∧ (PadTold s → PadTold (evaluateDiskWith run s)) := by
  unfold evaluateDiskWith
  dsimp only
  split
  · have kept := beginPresenceWith_keepsWear runs .diskWorn (some (.wear s.store.live.disk))
      { s with cdr := { s.cdr with diskWorn := diskIsWorn s } }
    exact ⟨kept.limits, kept.live, kept.disk rfl, kept.pad⟩
  · split
    · rw [losePresence_eq]
      exact ⟨rfl, rfl, rfl, id⟩
    · refine ⟨rfl, rfl, ?_, id⟩
      unfold DiskTold
      cases flag : s.cdr.diskWorn <;> cases worn : diskIsWorn s <;> simp_all

end Run

/-! After a station reset the flags agree (R99). -/

theorem resetItem_keepsWear (cause : List (BitVec 32)) (item : ResetItem) (s : State) :
    KeepsWear s (resetItem cause s item) := by
  cases item with
  | record => exact queueEvent_keepsWear _ _ _ _
  | portLoss => exact beginPresenceWith_keepsWear takingRunTransparent_keepsWear _ _ _
  | padWear =>
    obtain ⟨limits, live, pad, disk⟩ := evaluatePadWith_tells takingRunTransparent_keepsWear s
    exact ⟨limits, live, fun _ => pad, disk⟩
  | diskWear =>
    obtain ⟨limits, live, disk, pad⟩ := evaluateDiskWith_tells takingRunTransparent_keepsWear s
    exact ⟨limits, live, pad, fun _ => disk⟩

/-- Items that tell of each wear that is not told leave both told. -/
theorem foldl_resetItem_tells (cause : List (BitVec 32)) (items : List ResetItem) (s : State)
    (pad : PadTold s ∨ .padWear ∈ items) (disk : DiskTold s ∨ .diskWear ∈ items) :
    PadTold (items.foldl (resetItem cause) s) ∧ DiskTold (items.foldl (resetItem cause) s) ∧
      KeepsWear s (items.foldl (resetItem cause) s) := by
  induction items generalizing s with
  | nil => exact ⟨pad.resolve_right (by simp), disk.resolve_right (by simp), .refl s⟩
  | cons item items ih =>
    have kept := resetItem_keepsWear cause item s
    have told := ih (resetItem cause s item) ?_ ?_
    · exact ⟨told.1, told.2.1, kept.trans told.2.2⟩
    · rcases pad with pad | mem
      · exact .inl (kept.pad pad)
      · rcases List.mem_cons.mp mem with rfl | mem
        · exact .inl (evaluatePadWith_tells takingRunTransparent_keepsWear s).2.2.1
        · exact .inr mem
    · rcases disk with disk | mem
      · exact .inl (kept.disk disk)
      · rcases List.mem_cons.mp mem with rfl | mem
        · exact .inl (evaluateDiskWith_tells takingRunTransparent_keepsWear s).2.2.1
        · exact .inr mem

theorem mem_resetItems_padWear {s : State} (worn : padIsWorn s = true) : ResetItem.padWear ∈ resetItems s := by
  simp [resetItems, worn]

theorem mem_resetItems_diskWear {s : State} (worn : diskIsWorn s = true) : ResetItem.diskWear ∈ resetItems s := by
  simp [resetItems, worn]

/-- After a station reset both flags are told, whatever they were (R99). -/
theorem stationReset_tells (cause : List (BitVec 32)) (s : State) :
    PadTold (stationReset cause s) ∧ DiskTold (stationReset cause s) ∧
      (stationReset cause s).mgmt.limits = s.mgmt.limits ∧ (stationReset cause s).store.live = s.store.live := by
  have start (n : Nat) (items : List ResetItem) (among : ∀ item ∈ resetItems (stationResetBlocks s), item ∈ items) :=
    foldl_resetItem_tells cause items ((stationResetBlocks s).choicesTaken n)
      (by
        cases worn : padIsWorn (stationResetBlocks s) with
        | false => exact .inl worn.symm
        | true => exact .inr (among _ (mem_resetItems_padWear worn)))
      (by
        cases worn : diskIsWorn (stationResetBlocks s) with
        | false => exact .inl worn.symm
        | true => exact .inr (among _ (mem_resetItems_diskWear worn)))
  obtain ⟨pad, disk, kept⟩ := start _ _ fun item mem => (freeOrder_perm (stationResetBlocks s) _).mem_iff.mpr mem
  exact ⟨pad, disk, kept.limits, kept.live⟩

theorem stationReset_keepsWear (cause : List (BitVec 32)) (s : State) : KeepsWear s (stationReset cause s) := by
  obtain ⟨pad, disk, limits, live⟩ := stationReset_tells cause s
  exact ⟨limits, live, fun _ => pad, fun _ => disk⟩

theorem takingRun_keepsWear (s : State) : KeepsWear s (takingRun s) :=
  takingRunWith_induction (Q := KeepsWear s) (fun k t _ kept => kept.trans (takeSource_keepsWear k t))
    (fun _ t kept => kept.trans (applyAction_keepsWear _ t)) (fun _ t kept => kept.trans (stationReset_keepsWear _ t))
    takingFuel (.refl s)

/-! The evaluation of wear presence (R96). -/

theorem padIsWorn_iff {s : State} : padIsWorn s = true ↔ wornOut s Wear.pad LimitBlock.padLife := by
  unfold padIsWorn wornOut
  cases s.mgmt.limits <;> simp

theorem diskIsWorn_iff {s : State} : diskIsWorn s = true ↔ wornOut s Wear.disk LimitBlock.diskLife := by
  unfold diskIsWorn wornOut
  cases s.mgmt.limits <;> simp

theorem padTold_iff {s : State} : PadTold s ↔ (s.cdr.padWorn = true ↔ wornOut s Wear.pad LimitBlock.padLife) := by
  rw [← padIsWorn_iff, PadTold, Bool.eq_iff_iff]

theorem diskTold_iff {s : State} : DiskTold s ↔ (s.cdr.diskWorn = true ↔ wornOut s Wear.disk LimitBlock.diskLife) := by
  rw [← diskIsWorn_iff, DiskTold, Bool.eq_iff_iff]

theorem evaluatePadWith_of_told {run : State → State} {s : State} (told : PadTold s) : evaluatePadWith run s = s := by
  unfold PadTold at told
  cases worn : padIsWorn s <;> simp [evaluatePadWith, told, worn]

theorem evaluateDiskWith_of_told {run : State → State} {s : State} (told : DiskTold s) : evaluateDiskWith run s = s := by
  unfold DiskTold at told
  cases worn : diskIsWorn s <;> simp [evaluateDiskWith, told, worn]

theorem bothWearBegin_of_padTold {s : State} (told : PadTold s) : bothWearBegin s = false := by
  unfold PadTold at told
  cases worn : padIsWorn s <;> simp [bothWearBegin, told, worn]

theorem bothWearBegin_of_diskTold {s : State} (told : DiskTold s) : bothWearBegin s = false := by
  unfold DiskTold at told
  cases worn : diskIsWorn s <;> simp [bothWearBegin, told, worn]

theorem evaluateWear_of_not_both {s : State} (apart : bothWearBegin s = false) :
    evaluateWear s = evaluateDiskWith takingRun (evaluatePadWith takingRun s) := by
  simp [evaluateWear, apart]

theorem evaluateWear_tells (s : State) :
    (evaluateWear s).mgmt.limits = s.mgmt.limits ∧ (evaluateWear s).store.live = s.store.live ∧
    PadTold (evaluateWear s) ∧ DiskTold (evaluateWear s) := by
  have pad := evaluatePadWith_tells takingRun_keepsWear
  have disk := evaluateDiskWith_tells takingRun_keepsWear
  unfold evaluateWear
  split
  · obtain ⟨limitsD, liveD, toldD, -⟩ := disk (s.choicesTaken 1)
    obtain ⟨limitsP, liveP, toldP, keptD⟩ := pad (evaluateDiskWith takingRun (s.choicesTaken 1))
    exact ⟨limitsP.trans limitsD, liveP.trans liveD, toldP, keptD toldD⟩
  · generalize start : (if bothWearBegin s then s.choicesTaken 1 else s) = t
    have limits : t.mgmt.limits = s.mgmt.limits := by rw [← start]; split <;> rfl
    have live : t.store.live = s.store.live := by rw [← start]; split <;> rfl
    obtain ⟨limitsP, liveP, toldP, -⟩ := pad t
    obtain ⟨limitsD, liveD, toldD, keptP⟩ := disk (evaluatePadWith takingRun t)
    exact ⟨(limitsD.trans limitsP).trans limits, (liveD.trans liveP).trans live, keptP toldP, toldD⟩

theorem evaluatePadWith_of_begin {run : State → State} {s : State} (flag : s.cdr.padWorn = false)
    (worn : padIsWorn s = true) :
    evaluatePadWith run s = beginPresenceWith run .padWorn (some (.wear s.store.live.pad))
      { s with cdr := { s.cdr with padWorn := !s.cdr.padWorn } } := by
  simp [evaluatePadWith, flag, worn]

theorem evaluatePadWith_of_loss {run : State → State} {s : State} (flag : s.cdr.padWorn = true)
    (sound : padIsWorn s = false) :
    evaluatePadWith run s =
      State.setSource { s with cdr := { s.cdr with padWorn := !s.cdr.padWorn } } .padWorn (withoutPresence (s.source .padWorn)) := by
  simp only [evaluatePadWith, flag, sound, losePresence_eq]
  rfl

theorem evaluateDiskWith_of_begin {run : State → State} {s : State} (flag : s.cdr.diskWorn = false)
    (worn : diskIsWorn s = true) :
    evaluateDiskWith run s = beginPresenceWith run .diskWorn (some (.wear s.store.live.disk))
      { s with cdr := { s.cdr with diskWorn := !s.cdr.diskWorn } } := by
  simp [evaluateDiskWith, flag, worn]

theorem evaluateDiskWith_of_loss {run : State → State} {s : State} (flag : s.cdr.diskWorn = true)
    (sound : diskIsWorn s = false) :
    evaluateDiskWith run s =
      State.setSource { s with cdr := { s.cdr with diskWorn := !s.cdr.diskWorn } } .diskWorn
        (withoutPresence (s.source .diskWorn)) := by
  simp only [evaluateDiskWith, flag, sound, losePresence_eq]
  rfl

theorem evaluateWear_of_padTold {s : State} (told : PadTold s) : evaluateWear s = evaluateDiskWith takingRun s := by
  rw [evaluateWear_of_not_both (bothWearBegin_of_padTold told), evaluatePadWith_of_told told]

theorem evaluateWear_of_diskTold {s : State} (told : DiskTold s) : evaluateWear s = evaluatePadWith takingRun s := by
  have kept := (evaluatePadWith_tells takingRun_keepsWear s).2.2.2 told
  rw [evaluateWear_of_not_both (bothWearBegin_of_diskTold told), evaluateDiskWith_of_told kept]

/-! REPLACE_CONSUMABLE (R97). -/

theorem ownReplaceConsumable_of_idle {r : Request} {s : State} {b : Nat} (item : b = 1 ∨ b = 2) (idle : s.cdr.run = none) :
    ownReplaceConsumable r b s =
      (requestWearWrite (evaluateWear (if b = 1 then renewPad s else renewDisk s)), doneAnswer) := by
  have known : b = itemPad ∨ b = itemDisk := item
  simp only [ownReplaceConsumable, known, idle, not_true_eq_false, if_false, Option.isSome_none, Bool.false_eq_true]
  rfl

/-- Settles O43: the flags agree with the counters after every evaluation, also when a taking run resets the station. -/
theorem replacingAConsumable : Obligations.ReplacingAConsumable := by
  refine ⟨fun r s b adm args => ?_, fun s p d isP isD => ?_⟩
  · have walk : wholeWalk byte r.args = some b.toNat := by rw [args, wholeWalk_byte]
    refine ⟨fun notPad notDisk => ?_, fun item runs => ?_, fun pad idle => ?_, fun disk idle => ?_⟩
    · refine request_refused 33 adm walk (if_pos fun item => ?_)
      rcases item with item | item
      · exact notPad (BitVec.eq_of_toNat_eq item)
      · exact notDisk (BitVec.eq_of_toNat_eq item)
    · have known : ¬¬(b.toNat = itemPad ∨ b.toNat = itemDisk) :=
        not_not.mpr (item.imp (fun e => by rw [e]; rfl) (fun e => by rw [e]; rfl))
      refine request_refused 33 adm walk ((if_neg known).trans (if_pos ?_))
      rw [served_cdr, Option.isSome_iff_ne_none]
      exact runs
    · subst pad
      refine request_effect 33 adm walk ((ownReplaceConsumable_of_idle (.inl rfl) (by rw [served_cdr, idle])).trans ?_)
      rw [if_pos rfl, renewPad, served_store, served_cdr]
      rfl
    · subst disk
      refine request_effect 33 adm walk ((ownReplaceConsumable_of_idle (.inr rfl) (by rw [served_cdr, idle])).trans ?_)
      rw [if_neg (by decide), renewDisk, served_store, served_cdr]
      rfl
  · subst isP isD
    obtain ⟨limits, live, pad, disk⟩ := evaluateWear_tells s
    rw [padTold_iff] at pad
    rw [diskTold_iff] at disk
    have same : wornOut (evaluateWear s) = wornOut s := by
      funext counter life
      rw [wornOut, limits, live]
      rfl
    rw [same] at pad disk
    simp only [← padTold_iff, ← diskTold_iff]
    simp only [← padIsWorn_iff, ← diskIsWorn_iff, Bool.not_eq_true] at pad disk ⊢
    refine ⟨fun padTold => ⟨fun diskTold => ?_, fun flag worn => ?_, fun flag sound => ?_⟩,
      fun diskTold => ⟨fun flag worn => ?_, fun flag sound => ?_⟩, pad, disk, limits, live⟩
    · rw [evaluateWear_of_padTold padTold, evaluateDiskWith_of_told diskTold]
    · rw [evaluateWear_of_padTold padTold]
      exact evaluateDiskWith_of_begin flag worn
    · rw [evaluateWear_of_padTold padTold]
      exact evaluateDiskWith_of_loss flag sound
    · rw [evaluateWear_of_diskTold diskTold]
      exact evaluatePadWith_of_begin flag worn
    · rw [evaluateWear_of_diskTold diskTold]
      exact evaluatePadWith_of_loss flag sound

end Sys2Proof.Machine


/-! ## The end of a dwell (R93, R94) -/

namespace Sys2Proof.Machine

/-- A travel writes ARM and the program's run, and nothing else (R90). -/
theorem enterTravel_eq (run : CondRun) (n : Nat) (seg : Segment) (s : State) :
    enterTravel run n seg s = { s with
      slots := (writeSlot .arm (clampNat s.lim.armMin s.lim.armMax seg.position) s).slots
      cdr := { s.cdr with
        run := some { run with
          segment := n, target := clampNat s.lim.armMin s.lim.armMax seg.position
          phase := .travel (some (s.base.time + BitVec.ofNat 32 s.lim.arrivalTimeout)) } } } := by
  unfold enterTravel
  dsimp only
  have only := writeSlot_only .arm (clampNat s.lim.armMin s.lim.armMax seg.position) s
  generalize writeSlot .arm (clampNat s.lim.armMin s.lim.armMax seg.position) s = t at only ⊢
  have wrote : t = { s with slots := t.slots } := congrArg (fun u : State => { u with slots := t.slots }) only
  rw [wrote]
  rfl

/-- The run that the next travel starts from, and its segment (R93). -/
theorem nextTravel_eq {run : CondRun} {p : CondProgram} {next : Segment} {s : State}
    (segment : (if p.segments.length ≤ run.segment then p.segments[0]? else p.segments[run.segment]?) = some next) :
    nextTravel run p s = enterTravel
      (if p.segments.length ≤ run.segment then { run with passes := min (run.passes + 1) 65535 } else run)
      (if p.segments.length ≤ run.segment then 1 else run.segment + 1) next s := by
  by_cases last : p.segments.length ≤ run.segment
  · rw [if_pos last] at segment
    simp only [nextTravel, last, decide_true, if_true, segmentAt, Nat.one_ne_zero, if_false, Nat.sub_self, segment]
    rfl
  · rw [if_neg last] at segment
    simp only [nextTravel, last, decide_false, Bool.false_eq_true, if_false, segmentAt, Nat.succ_ne_zero,
      Nat.add_sub_cancel, segment]

theorem addsWear_iff {run : CondRun} : addsWear run = true ↔ 0 < run.force ∧ 0 < run.speed := by
  simp [addsWear]

/-- The state from which a dwell that ended travels on: with its wear added when force and speed act (R94). -/
def dwelled (run : CondRun) (d : Nat) (s : State) : State := if addsWear run then wearAdded run.force d s else s

theorem dwellExpires_eq {run : CondRun} {p : CondProgram} {seg : Segment} {s : State} (runs : s.cdr.run = some run)
    (program : tableGet s.cdr.programs run.program = some p) (counted : 1 ≤ run.segment)
    (here : p.segments[run.segment - 1]? = some seg) :
    dwellExpires s = if addsWear run then evaluateWear (nextTravel run p (dwelled run seg.dwell s))
      else nextTravel run p (dwelled run seg.dwell s) := by
  have current : segmentAt p run.segment = some seg := by
    rw [segmentAt, if_neg (by omega), here]
  simp only [dwellExpires, runs, program, current, dwellEnds, dwelled]
  cases addsWear run <;> rfl

/-- What the wear of a dwell leaves as it was. -/
theorem dwelled_only (run : CondRun) (d : Nat) (s : State) :
    { dwelled run d s with
      store := { (dwelled run d s).store with live := s.store.live }
      cdr := { (dwelled run d s).cdr with padRem := s.cdr.padRem, diskRem := s.cdr.diskRem } } = s := by
  unfold dwelled
  split <;> rfl

theorem dwelled_field {α : Type} (f : State → α)
    (unread : ∀ (t : State) (w : Wear) (x y : Nat), f { t with
      store := { t.store with live := w }, cdr := { t.cdr with padRem := x, diskRem := y } } = f t)
    (run : CondRun) (d : Nat) (s : State) : f (dwelled run d s) = f s := by
  rw [← unread (dwelled run d s) s.store.live s.cdr.padRem s.cdr.diskRem, dwelled_only]

/-- Settles O42: the wear of the dwell, the travel, then the evaluation. -/
theorem dwellExpiryAddsWearAndTravelsOn : Obligations.DwellExpiryAddsWearAndTravelsOn := by
  intro s run p seg next d running runs phase due program counted here segment
  generalize is : dwelled run seg.dwell s = u
  have travels : nextTravel run p u = _ := (nextTravel_eq segment).trans (enterTravel_eq _ _ _ u)
  have lim : u.lim = s.lim := is ▸ dwelled_field State.lim (fun _ _ _ _ => rfl) run seg.dwell s
  have base : u.base = s.base := is ▸ dwelled_field State.base (fun _ _ _ _ => rfl) run seg.dwell s
  have mode : u.mgmt = s.mgmt := is ▸ dwelled_field State.mgmt (fun _ _ _ _ => rfl) run seg.dwell s
  have slots : u.slots = s.slots := is ▸ dwelled_field State.slots (fun _ _ _ _ => rfl) run seg.dwell s
  have kept {α : Type} (f : State → α) (unread : ∀ (t : State) (w : Wear) (x y : Nat), f { t with
      store := { t.store with live := w }, cdr := { t.cdr with padRem := x, diskRem := y } } = f t)
      (unmoved : ∀ (t : State) (a : PerFn (Option Slot)) (b : Option CondRun),
        f { t with slots := a, cdr := { t.cdr with run := b } } = f t) : f (nextTravel run p u) = f s := by
    rw [travels]
    exact (unmoved u _ _).trans (is ▸ dwelled_field f unread run seg.dwell s)
  refine ⟨nextTravel run p u, ?exec, ?run, fun adds => ?wear, fun none => ?none, fun active => ?arm, fun f other => ?slots,
    kept (fun t => t.cdr.programs) (fun _ _ _ _ => rfl) (fun _ _ _ => rfl),
    kept (fun t => t.cdr.padWorn) (fun _ _ _ _ => rfl) (fun _ _ _ => rfl),
    kept (fun t => t.cdr.diskWorn) (fun _ _ _ _ => rfl) (fun _ _ _ => rfl),
    kept (fun t => { t.store with live := s.store.live }) (fun _ _ _ _ => rfl) (fun _ _ _ => rfl),
    ⟨kept State.seqs (fun _ _ _ _ => rfl) (fun _ _ _ => rfl), kept State.steps (fun _ _ _ _ => rfl) (fun _ _ _ => rfl),
      kept State.samplers (fun _ _ _ _ => rfl) (fun _ _ _ => rfl), kept State.comps (fun _ _ _ _ => rfl) (fun _ _ _ => rfl)⟩,
    kept State.arb (fun _ _ _ _ => rfl) (fun _ _ _ => rfl), kept State.dose (fun _ _ _ _ => rfl) (fun _ _ _ => rfl),
    ⟨kept State.portU (fun _ _ _ _ => rfl) (fun _ _ _ => rfl), kept State.portD (fun _ _ _ _ => rfl) (fun _ _ _ => rfl),
      kept State.fwd (fun _ _ _ _ => rfl) (fun _ _ _ => rfl)⟩,
    kept State.fmap (fun _ _ _ _ => rfl) (fun _ _ _ => rfl), kept State.cu (fun _ _ _ _ => rfl) (fun _ _ _ => rfl),
    kept State.mgmt (fun _ _ _ _ => rfl) (fun _ _ _ => rfl),
    ⟨kept State.base (fun _ _ _ _ => rfl) (fun _ _ _ => rfl), kept State.pending (fun _ _ _ _ => rfl) (fun _ _ _ => rfl),
      kept State.choice (fun _ _ _ _ => rfl) (fun _ _ _ => rfl)⟩⟩
  case exec =>
    refine expiry_of_due (due := fun s => deadlineDue s (dwellDeadline s.cdr.run)) running ?_ ?_
    · have deadline : dwellDeadline s.cdr.run = some d := by
        obtain ⟨_, _, _, _, _, _, _⟩ := run
        rw [runs]
        cases phase
        rfl
      rw [deadline]
      exact deadlineDue_some due
    · rw [dwellExpires_eq runs program counted here, is]
      simp only [addsWear_iff]
  case run =>
    rw [travels, lim, base]
    split <;> rfl
  case wear =>
    rw [travels, ← is, dwelled, if_pos (addsWear_iff.mpr adds)]
    exact ⟨rfl, rfl, rfl⟩
  case none =>
    rw [travels, ← is, dwelled, if_neg (addsWear_iff.not.mpr none)]
    exact ⟨rfl, rfl, rfl⟩
  case arm =>
    have on : u.active = true := active_eq_true (by rw [mode, active])
    have written := writeSlot_get_same (s := u) .arm (clampNat u.lim.armMin u.lim.armMax next.position) on
    rw [travels, ← lim]
    dsimp only
    rw [written]
    rfl
  case slots =>
    rw [travels, ← slots]
    exact writeSlot_get_of_ne _ u other

end Sys2Proof.Machine


/-! ## The requests of the condition unit (R150 to R155) -/

namespace Sys2Proof.Machine

/-! Codes that name nothing. -/

theorem sourceNumber_range (k : SourceId) : 1 ≤ sourceNumber k ∧ sourceNumber k ≤ 16 := by cases k <;> decide

theorem sourceOfNumber_of_out {n : Nat} (out : n = 0 ∨ 16 < n) : sourceOfNumber n = none := by
  refine List.find?_eq_none.mpr fun k _ same => ?_
  have range := sourceNumber_range k
  have same : sourceNumber k = n := by simpa using same
  omega

theorem sourceOfByte_of_out {b : Byte} (out : b = 0 ∨ 16 < b.toNat) : sourceOfNumber b.toNat = none :=
  sourceOfNumber_of_out (out.imp_left fun e => by rw [e]; rfl)

theorem actionCode_of_actionOfCode {n : Nat} {a : Action} (named : actionOfCode n = some a) : actionCode a = n := by
  unfold actionOfCode at named
  split at named <;> cases named <;> rfl

theorem actionOfByte_ne {b : Byte} {a : Action} (other : b ≠ BitVec.ofNat 8 (actionCode a)) :
    actionOfCode b.toNat ≠ some a := fun named =>
  other (BitVec.eq_of_toNat_eq (by rw [byte_actionCode, actionCode_of_actionOfCode named]))

theorem yesOfCode_of_out {n : Nat} (out : 1 < n) : yesOfCode n = none := by
  match n with
  | 0 => simp at out
  | 1 => simp at out
  | _ + 2 => rfl

@[simp] theorem yesOfCode_yes (on : Bool) : yesOfCode (if on then (1 : Byte) else 0).toNat = some on := by cases on <;> rfl

@[simp] theorem wholeWalk_setSource (b en sev act : Byte) :
    wholeWalk setSourceArgs [b, en, sev, act] = some ⟨b.toNat, en.toNat, sev.toNat, act.toNat⟩ := rfl

@[simp] theorem wholeWalk_simulate (b head hi lo : Byte) :
    wholeWalk simulateArgs [b, head, hi, lo] = some ⟨b.toNat, head.toNat, hi.toNat * 256 + lo.toNat⟩ := rfl

/-! SET_SOURCE (R150). -/

theorem ownSetSource_of_known {r : Request} {k : SourceId} {en : Bool} {sev act : Nat} {enable : Byte} {s : State}
    (enables : yesOfCode enable.toNat = some en) :
    ownSetSource r ⟨sourceNumber k, enable.toNat, sev, act⟩ s =
      if isSpecial k then setSpecial r k en act s else setOrdinary k en sev act s := by
  simp only [ownSetSource, sourceOfNumber_sourceNumber, enables]

theorem setOrdinary_refuses {k : SourceId} {en : Bool} {s : State} {sev act : Byte}
    (bad : sev = 0 ∨ 15 < sev.toNat ∨ ∀ a : Action, a ≠ .reset → act ≠ BitVec.ofNat 8 (actionCode a)) :
    setOrdinary k en sev.toNat act.toNat s = refuse s .invalid := by
  unfold setOrdinary
  split
  · rename_i inside
    have notAction : ∀ a : Action, a ≠ .reset → actionOfCode act.toNat ≠ some a := by
      rcases bad with zero | high | other
      · subst zero
        exact absurd inside (by decide)
      · exact absurd inside (by simp [within]; omega)
      · exact fun a notReset => actionOfByte_ne (other a notReset)
    split
    · exact absurd ‹_› (notAction .note (by decide))
    · exact absurd ‹_› (notAction .pause (by decide))
    · exact absurd ‹_› (notAction .hold (by decide))
    · rfl
    · rfl
  · rfl

theorem setSpecial_refuses {r : Request} {k : SourceId} {en : Bool} {s : State} {act : Byte}
    (notHold : act ≠ BitVec.ofNat 8 (actionCode .hold)) (notReset : act ≠ BitVec.ofNat 8 (actionCode .reset)) :
    setSpecial r k en act.toNat s = refuse s .invalid := by
  unfold setSpecial
  split
  · exact absurd ‹_› (actionOfByte_ne notHold)
  · exact absurd ‹_› (actionOfByte_ne notReset)
  all_goals rfl

theorem setOrdinary_of_good {k : SourceId} {en : Bool} {sev : Nat} {a : Action} {s : State} (low : 1 ≤ sev) (high : sev ≤ 15)
    (notReset : a ≠ .reset) : setOrdinary k en sev (actionCode a) s = applySettings k en sev a s := by
  have inside : within 1 15 sev = true := by simp [within, low, high]
  simp only [setOrdinary, inside, if_true, actionOfCode_actionCode]
  cases a with
  | reset => exact absurd rfl notReset
  | note => rfl
  | pause => rfl
  | hold => rfl

theorem setSpecial_of_good {r : Request} {k : SourceId} {en : Bool} {a : Action} {s : State} (good : a = .hold ∨ a = .reset) :
    setSpecial r k en (actionCode a) s =
      if fromTool r && !en then refuse s .origin else applySettings k en (s.source k).severity a s := by
  rcases good with rfl | rfl <;> rfl

theorem applySettings_eq (k : SourceId) (en : Bool) (sev : Nat) (a : Action) (s : State) :
    applySettings k en sev a s =
      (takingRun (s.setSource k { s.source k with enabled := en, severity := sev, action := a }),
        { outcome := .done, results := [if en then 1 else 0, BitVec.ofNat 8 sev, BitVec.ofNat 8 (actionCode a)] }) := by
  cases en <;> rfl

/-! CLEAR_SOURCE (R151). -/

theorem not_supervisionLoss_of_edge {k : SourceId} (edge : isLevel k = false) : k ≠ .supervisionLoss := by
  rintro rfl
  cases edge

theorem clearSource_of_edge {k : SourceId} (s : State) (edge : isLevel k = false) :
    clearSource k s = s.setSource k { s.source k with state := .idle, data := none } := by
  simp [clearSource, edge]

theorem clearSource_of_level {k : SourceId} (s : State) (level : isLevel k = true) :
    clearSource k s = if (s.source k).sim then endSimulation k s else s := by
  simp [clearSource, level]

theorem clearSource_mgmt (k : SourceId) (s : State) : (clearSource k s).mgmt = s.mgmt := by
  unfold clearSource
  split
  · split
    · unfold endSimulation
      dsimp only
      split <;> rfl
    · rfl
  · rfl

theorem clearSource_request {r : Request} {s : State} {k : SourceId} (adm : Admitted r s)
    (args : r.args = [BitVec.ofNat 8 (sourceNumber k)]) :
    exec (.clearSource r) s = completes r .done [] (clearSource k (served r s)) := by
  refine request_completes (x := sourceNumber k) 22 adm (by rw [args, wholeWalk_byte, byte_sourceNumber]) ?_ ?_
  · simp only [ownClearSource, sourceOfNumber_sourceNumber]
    rfl
  · rw [clearSource_mgmt, served_resetTaken]

/-! SIMULATE_SOURCE (R152). -/

theorem ownSimulateSource_of_known {r : Request} {k : SourceId} {head : Byte} {h : Head} {v : Nat} (s : State)
    (interlock : r.origin = 62) (names : k = .limitReached → head = BitVec.ofNat 8 (headCode h)) :
    ownSimulateSource r ⟨sourceNumber k, head.toNat, v⟩ s =
      (simulateSource k (if k = .limitReached then some h else none) v s, doneAnswer) := by
  by_cases limit : k = .limitReached
  · have code := names limit
    subst limit code
    simp only [ownSimulateSource, fromTool_of_interlock interlock, sourceOfNumber_sourceNumber, byte_headCode,
      headOfCode_headCode, Bool.false_eq_true, if_false, if_true]
  · rw [ownSimulateSource, fromTool_of_interlock interlock, if_neg Bool.false_ne_true, if_neg limit]
    cases k with
    | limitReached => exact absurd rfl limit
    | _ => rfl

/-- A simulated occurrence or presence (R152, R140, R141). -/
theorem simulateSource_request {r : Request} {s : State} {k : SourceId} {h : Head} {head hi lo : Byte} (adm : Admitted r s)
    (interlock : r.origin = 62) (names : k = .limitReached → head = BitVec.ofNat 8 (headCode h))
    (args : r.args = [BitVec.ofNat 8 (sourceNumber k), head, hi, lo]) :
    exec (.simulateSource r) s = .next (settle (respond r.origin r.tag { outcome := .done, results := [] }
      (simulateSource k (if k = .limitReached then some h else none) (hi.toNat * 256 + lo.toNat) (beginRequest s)))) := by
  refine request_effect (x := ⟨sourceNumber k, head.toNat, hi.toNat * 256 + lo.toNat⟩) 23 adm
    (by rw [args, wholeWalk_simulate, byte_sourceNumber]) ?_
  rw [ownSimulateSource_of_known _ interlock names, served_of_interlock_origin s interlock]
  rfl

theorem not_limitReached_of_level {k : SourceId} (level : isLevel k = true) : k ≠ .limitReached := by
  rintro rfl
  cases level

/-- An answer whose effect does not reset the station completes the request. -/
theorem respond_completes {r : Request} {t : State} (kept : t.mgmt.resetTaken = false) :
    (.next (settle (respond r.origin r.tag { outcome := .done, results := [] } t)) : Result) = completes r .done [] t := by
  rw [respond_plain kept]
  rfl

theorem simulateSource_of_edge {k : SourceId} {d : Option Head} {v : Nat} {s : State} (edge : isLevel k = false) :
    simulateSource k d v s = occurrenceWith takingRun k (.simulated d v) s := by
  simp [simulateSource, edge, occurrence]

theorem simulateSource_of_level {k : SourceId} {d : Option Head} {v : Nat} {s : State} (level : isLevel k = true) :
    simulateSource k d v s = beginSimulationWith takingRun k v s := by
  simp [simulateSource, level]

theorem beginSimulationWith_of_sim {run : State → State} {k : SourceId} {s : State} (v : Nat)
    (sim : (s.source k).sim = true) : beginSimulationWith run k v s = s := if_pos sim

theorem beginSimulationWith_of_real {run : State → State} {k : SourceId} {s : State} (v : Nat)
    (sim : (s.source k).sim = false) (real : (s.source k).real = true) :
    beginSimulationWith run k v s = s.setSource k { s.source k with sim := true } := by
  simp only [beginSimulationWith, sim, real, Bool.false_eq_true, if_false, if_true]

theorem beginSimulationWith_of_absent {run : State → State} {k : SourceId} {s : State} (v : Nat)
    (sim : (s.source k).sim = false) (real : (s.source k).real = false) :
    beginSimulationWith run k v s = run (s.setSource k { s.source k with
      sim := true, state := .pending, data := some (.simulated none v) }) := by
  simp only [beginSimulationWith, sim, real, Bool.false_eq_true, if_false]

theorem served_severity (r : Request) (s : State) (k : SourceId) :
    ((served r s).source k).severity = (s.source k).severity := (superviseRequest_settings r.origin (beginRequest s) k).2.1

/-! The requests, byte by byte. -/

/-- A source outside 1 to 16 (R150, R151, R152). -/
theorem sourceRequests_of_out {r : Request} {s : State} {b : Byte} (adm : Admitted r s) (out : b = 0 ∨ 16 < b.toNat) :
    (∀ en sev act, r.args = [b, en, sev, act] → exec (.setSource r) s = completes r .invalid [] (served r s)) ∧
    (r.args = [b] → exec (.clearSource r) s = completes r .invalid [] (served r s)) ∧
    (∀ hb hi lo, r.args = [b, hb, hi, lo] → exec (.simulateSource r) s =
      completes r (if r.origin = 0 then .origin else .invalid) [] (served r s)) := by
  have nobody := sourceOfByte_of_out out
  refine ⟨fun en sev act args => ?_, fun args => ?_, fun hb hi lo args => ?_⟩
  · refine request_refused 21 adm (by rw [args, wholeWalk_setSource]) ?_
    simp only [ownSetSource, nobody]
  · refine request_refused 22 adm (by rw [args, wholeWalk_byte]) ?_
    simp only [ownClearSource, nobody]
  · refine request_refused 23 adm (by rw [args, wholeWalk_simulate]) ?_
    by_cases tool : r.origin = 0
    · simp only [ownSimulateSource, fromTool_of_tool tool, tool, if_true]
    · have notTool : fromTool r = false := decide_eq_false tool
      simp only [ownSimulateSource, notTool, tool, nobody, if_false, Bool.false_eq_true]

/-- SET_SOURCE with a field that is out of range (R150). -/
theorem setSource_refuses {r : Request} {s : State} {k : SourceId} {en sev act : Byte} (adm : Admitted r s)
    (args : r.args = [BitVec.ofNat 8 (sourceNumber k), en, sev, act])
    (bad : 1 < en.toNat ∨
      (isSpecial k = false ∧ (sev = 0 ∨ 15 < sev.toNat ∨
        ∀ a : Action, a ≠ .reset → act ≠ BitVec.ofNat 8 (actionCode a))) ∨
      (isSpecial k = true ∧ act ≠ BitVec.ofNat 8 (actionCode .hold) ∧ act ≠ BitVec.ofNat 8 (actionCode .reset))) :
    exec (.setSource r) s = completes r .invalid [] (served r s) := by
  refine request_refused (x := ⟨sourceNumber k, en.toNat, sev.toNat, act.toNat⟩) 21 adm
    (by rw [args, wholeWalk_setSource, byte_sourceNumber]) ?_
  cases enables : yesOfCode en.toNat with
  | none => simp only [ownSetSource, enables, sourceOfNumber_sourceNumber]
  | some on =>
    rw [ownSetSource_of_known enables]
    rcases bad with high | ⟨ordinary, fields⟩ | ⟨special, notHold, notReset⟩
    · rw [yesOfCode_of_out high] at enables
      cases enables
    · rw [ordinary]
      exact setOrdinary_refuses fields
    · rw [special]
      exact setSpecial_refuses notHold notReset

/-- SET_SOURCE of a source other than the two special ones (R150). -/
theorem setSource_of_ordinary {r : Request} {s : State} {k : SourceId} {en : Bool} {sev : Nat} {a : Action}
    (adm : Admitted r s) (ordinary : isSpecial k = false) (low : 1 ≤ sev) (high : sev ≤ 15) (notReset : a ≠ .reset)
    (args : r.args =
      [BitVec.ofNat 8 (sourceNumber k), if en then 1 else 0, BitVec.ofNat 8 sev, BitVec.ofNat 8 (actionCode a)]) :
    exec (.setSource r) s = .next (settle (respond r.origin r.tag
      { outcome := .done, results := r.args.drop 1 }
      (takingRun ((served r s).setSource k
        { (served r s).source k with enabled := en, severity := sev, action := a })))) := by
  refine request_effect (x := ⟨sourceNumber k, (if en then (1 : Byte) else 0).toNat, sev, actionCode a⟩) 21 adm ?_ ?_
  · rw [args, wholeWalk_setSource, byte_sourceNumber, byte_actionCode, byte_toNat (by omega)]
  · rw [ownSetSource_of_known (yesOfCode_yes en), ordinary, if_neg Bool.false_ne_true, args]
    exact (setOrdinary_of_good low high notReset).trans (applySettings_eq ..)

/-- SET_SOURCE of one of the two special sources (R150). -/
theorem setSource_of_special {r : Request} {s : State} {k : SourceId} {en : Bool} {sev : Byte} {a : Action}
    (adm : Admitted r s) (special : isSpecial k = true) (good : a = .hold ∨ a = .reset)
    (args : r.args = [BitVec.ofNat 8 (sourceNumber k), if en then 1 else 0, sev, BitVec.ofNat 8 (actionCode a)]) :
    (r.origin = 62 ∨ en = true →
      exec (.setSource r) s = .next (settle (respond r.origin r.tag
        { outcome := .done
          results := [if en then 1 else 0, BitVec.ofNat 8 (s.source k).severity, BitVec.ofNat 8 (actionCode a)] }
        (takingRun ((served r s).setSource k { (served r s).source k with enabled := en, action := a }))))) ∧
    (r.origin = 0 → en = false → exec (.setSource r) s = completes r .origin [] (served r s)) := by
  have walk : wholeWalk setSourceArgs r.args =
      some ⟨sourceNumber k, (if en then (1 : Byte) else 0).toNat, sev.toNat, actionCode a⟩ := by
    rw [args, wholeWalk_setSource, byte_sourceNumber, byte_actionCode]
  have own : ownSetSource r ⟨sourceNumber k, (if en then (1 : Byte) else 0).toNat, sev.toNat, actionCode a⟩ (served r s) =
      if fromTool r && !en then refuse (served r s) .origin
      else applySettings k en ((served r s).source k).severity a (served r s) := by
    rw [ownSetSource_of_known (yesOfCode_yes en), special]
    exact setSpecial_of_good good
  refine ⟨fun may => request_effect 21 adm walk (own.trans ?_), fun tool off => request_refused 21 adm walk (own.trans ?_)⟩
  · have allowed : (fromTool r && !en) = false := by
      rcases may with interlock | on
      · rw [fromTool_of_interlock interlock]
        rfl
      · rw [on]
        exact Bool.and_false _
    rw [allowed, if_neg Bool.false_ne_true, ← served_severity r s k, applySettings_eq]
  · rw [fromTool_of_tool tool, off]
    rfl

/-- Settles O48, request by request. -/
theorem sourceRequests : Obligations.SourceRequests := by
  refine ⟨fun r s b adm out => sourceRequests_of_out adm out,
    fun r s k en sev act adm args bad => setSource_refuses adm args bad, fun r s hb hi lo adm interlock args notA notB => ?limit,
    fun r s k adm => ⟨fun en sev a ordinary low high notReset args =>
      setSource_of_ordinary adm ordinary low high notReset args,
    fun en sev a special good args => setSource_of_special adm special good args, fun args => ?clear,
    fun h hb hi lo names args => ?simulate⟩⟩
  case limit =>
    have nobody : headOfCode hb.toNat = none := by
      unfold headOfCode
      split
      · exact absurd (BitVec.eq_of_toNat_eq ‹hb.toNat = 1›) notA
      · exact absurd (BitVec.eq_of_toNat_eq ‹hb.toNat = 2›) notB
      · rfl
    rw [← served_of_interlock_origin s interlock]
    refine request_refused (x := ⟨sourceNumber .limitReached, hb.toNat, hi.toNat * 256 + lo.toNat⟩) 23 adm
      (by rw [args, wholeWalk_simulate, byte_sourceNumber]) ?_
    simp only [ownSimulateSource, fromTool_of_interlock interlock, sourceOfNumber_sourceNumber, nobody, Bool.false_eq_true,
      if_false]
  case clear =>
    rw [clearSource_request adm args]
    refine ⟨fun edge => ?_, fun level interlock off => ?_, fun level interlock on real => ?_,
      fun level interlock on absent => ?_, fun level tool => ?_⟩
    · rw [clearSource_of_edge _ edge, served_source_of_ne r s (not_supervisionLoss_of_edge edge)]
    · have off : ((beginRequest s).source k).sim = false := off
      rw [served_of_interlock_origin s interlock, clearSource_of_level _ level, off]
      rfl
    · have on : ((beginRequest s).source k).sim = true := on
      rw [served_of_interlock_origin s interlock, clearSource_of_level _ level, on, if_pos rfl]
      exact congrArg _ (if_pos real)
    · have on : ((beginRequest s).source k).sim = true := on
      have absent : ¬((beginRequest s).source k).real = true := Bool.not_eq_true _ ▸ absent
      rw [served_of_interlock_origin s interlock, clearSource_of_level _ level, on, if_pos rfl]
      exact congrArg _ (if_neg absent)
    · rw [clearSource_of_level _ level]
  case simulate =>
    refine ⟨fun tool => ?_, fun interlock edge busy => ?_, fun interlock edge idle => ?_, fun interlock level on => ?_,
      fun interlock level off real => ?_, fun interlock level off absent => ?_⟩
    · refine request_refused 23 adm (by rw [args, wholeWalk_simulate]) ?_
      simp only [ownSimulateSource, fromTool_of_tool tool, if_true]
    · have busy : ((beginRequest s).source k).state ≠ .idle := busy
      rw [simulateSource_request adm interlock names args, simulateSource_of_edge edge, occurrenceWith_of_not_idle _ busy]
      exact respond_completes rfl
    · have idle : ((beginRequest s).source k).state = .idle := idle
      rw [simulateSource_request adm interlock names args, simulateSource_of_edge edge, occurrenceWith_of_idle _ idle]
      rfl
    · rw [simulateSource_request adm interlock names args, simulateSource_of_level level, beginSimulationWith_of_sim (s := beginRequest s) _ on]
      exact respond_completes rfl
    · rw [simulateSource_request adm interlock names args, simulateSource_of_level level,
        beginSimulationWith_of_real (s := beginRequest s) _ off real]
      exact respond_completes rfl
    · rw [simulateSource_request adm interlock names args, simulateSource_of_level level,
        beginSimulationWith_of_absent (s := beginRequest s) _ off absent]
      rfl

end Sys2Proof.Machine


/-! ## SET_LEVEL and RESUME_LEVEL (R144, R154, R155) -/

namespace Sys2Proof.Machine

theorem levelSet_eq (r : Request) (v : Nat) : levelSet r v = if r.origin = 0 then min v 10 else v := by
  by_cases tool : r.origin = 0
  · rw [levelSet, fromTool_of_tool tool, if_pos rfl, if_pos tool]
    rfl
  · rw [levelSet, show fromTool r = false from decide_eq_false tool, if_neg Bool.false_ne_true, if_neg tool]

/-- What a fall of L brings back (R144). -/
theorem rependSource_eq (level : Nat) (k : SourceId) (x : Source) :
    rependSource level k x = { x with
      state := if isLevel k = true ∧ x.state = .served ∧ (x.real = true ∨ x.sim = true) ∧ level < x.severity then .pending
        else x.state } := by
  have back : (isLevel k && decide (x.state = .served) && x.present && decide (level < x.severity)) = true ↔
      isLevel k = true ∧ x.state = .served ∧ (x.real = true ∨ x.sim = true) ∧ level < x.severity := by
    simp [Source.present, and_assoc]
  unfold rependSource
  by_cases falls : isLevel k = true ∧ x.state = .served ∧ (x.real = true ∨ x.sim = true) ∧ level < x.severity
  · rw [if_pos (back.mpr falls), if_pos falls]
  · rw [if_neg (back.not.mpr falls), if_neg falls]

theorem repend_source (s : State) (k : SourceId) : (repend s).source k = rependSource s.cu.level k (s.source k) :=
  PerSource.get_tabulate _ k

/-- Settles O49, request by request. -/
theorem levelRequests : Obligations.LevelRequests := by
  refine ⟨fun r s adm => ⟨fun b args high => ?_, fun v low args => ?_, fun args empty => ?_, fun lower top args stack => ?_⟩,
    fun s k => ⟨(repend_source s k).trans (rependSource_eq _ k _), rfl⟩⟩
  · exact request_refused 25 adm (by rw [args, wholeWalk_byte]) (if_pos high)
  · refine request_effect (x := v) 25 adm (by rw [args, wholeWalk_byte, byte_toNat (by omega)]) ?_
    rw [ownSetLevel, if_neg (by omega), levelSet_eq, setLevel, levelFell, served_level]
    rfl
  · refine request_refused 26 adm (by rw [args, wholeWalk_noArgs]) ?_
    simp [ownResumeLevel, empty]
  · refine request_effect (x := ()) 26 adm (by rw [args, wholeWalk_noArgs]) ?_
    simp only [ownResumeLevel, served_stack, stack, List.getLast?_append, List.getLast?_singleton, Option.some_or,
      resumeLevel, levelFell, served_level, List.dropLast_concat]
    rfl

end Sys2Proof.Machine


/-! ## Loading recipe steps (R3 to R5) -/

namespace Sys2Proof.Machine

/-! The field checks of the table requests. -/

theorem within_iff {lo hi x : Nat} : within lo hi x = true ↔ lo ≤ x ∧ x ≤ hi := by simp [within]

theorem option_all_iff {α : Type} {o : Option α} {p : α → Bool} : o.all p = true ↔ ∀ x, o = some x → p x = true := by
  cases o <;> simp

theorem PerArea.all_toList {α : Type} {t : PerArea α} {p : α → Bool} : t.toList.all p = true ↔ ∀ x, p (t.get x) = true := by
  simp [PerArea.toList, Area.mem_all]

theorem PerZone.all_toList {α : Type} {t : PerZone α} {p : α → Bool} : t.toList.all p = true ↔ ∀ z, p (t.get z) = true := by
  simp [PerZone.toList, Zone.mem_all]

theorem mem_workingSteps {s : State} {h : Head} {i : Nat} :
    i ∈ workingSteps s h ↔ ∃ p, headWorking s h = true ∧ (s.seq h).program = some p ∧ i ∈ p := by
  unfold workingSteps
  cases headWorking s h with
  | false => simp
  | true => cases (s.seq h).program <;> simp

theorem stepInUse_iff {s : State} {i : Nat} : stepInUse s i = true ↔
    ∃ h p, headWorking s h = true ∧ (s.seq h).program = some p ∧ i ∈ p := by
  simp only [stepInUse, List.contains_iff_mem, List.mem_append, mem_workingSteps]
  exact ⟨fun named => named.elim (fun ⟨p, at'⟩ => ⟨.a, p, at'⟩) (fun ⟨p, at'⟩ => ⟨.b, p, at'⟩),
    fun ⟨h, p, named⟩ => by cases h with | a => exact .inl ⟨p, named⟩ | b => exact .inr ⟨p, named⟩⟩

theorem controlOk_iff {c : ControlSection} : controlOk c = true ↔ c.gain ≤ 256 ∧ 1 ≤ c.maxStep ∧ c.maxStep ≤ 100 ∧
    1 ≤ c.minRate ∧ c.minRate ≤ 10000 ∧ 2 ≤ c.depth ∧ c.depth ≤ 8 := by
  simp only [controlOk, Bool.and_eq_true, within_iff, Nat.zero_le, true_and, and_assoc]

theorem zoneTargetOk_iff {t : ZoneTarget} : zoneTargetOk t = true ↔ (∀ n, t.target = some n → n ≤ 200000) ∧
    ∀ n, t.cleared = some n → n ≤ 1000 ∧ t.target ≠ none := by
  simp only [zoneTargetOk, Bool.and_eq_true, option_all_iff]
  cases t.target <;> cases t.cleared <;> simp [within_iff]

theorem endpointOk_iff {e : EndpointSection} : endpointOk e = true ↔ e.margin ≤ 5000 ∧ 1 ≤ e.confirm ∧ e.confirm ≤ 8 ∧
    ∀ z, (∀ n, (e.zones.get z).target = some n → n ≤ 200000) ∧
      ∀ n, (e.zones.get z).cleared = some n → n ≤ 1000 ∧ (e.zones.get z).target ≠ none := by
  simp only [endpointOk, Bool.and_eq_true, PerZone.all_toList, zoneTargetOk_iff, within_iff, Nat.zero_le, true_and]
  exact ⟨fun ⟨⟨zones, margin⟩, low, high⟩ => ⟨margin, low, high, zones⟩,
    fun ⟨margin, low, high, zones⟩ => ⟨⟨zones, margin⟩, low, high⟩⟩

theorem hasTarget_iff {o : Option EndpointSection} :
    hasTarget o = true ↔ ∃ e z, o = some e ∧ (e.zones.get z).target ≠ none := by
  cases o with
  | none => simp [hasTarget]
  | some e => simp [hasTarget, PerZone.toList, Zone.mem_all, Option.isSome_iff_ne_none]

/-- The field checks of R4, in full. -/
theorem stepFieldsOk_iff {a : StepArgs} {m : EndMode} : stepFieldsOk a m = true ↔
    1000 ≤ a.limit ∧ a.limit ≤ 1800000 ∧ (∀ x, a.base.get x ≤ 1000) ∧
    (∀ b x, a.bounds = some b → (b.get x).lo ≤ 1000 ∧ (b.get x).hi ≤ 1000) ∧
    (∀ n, a.minSamples = some n → 1 ≤ n ∧ n ≤ 64) ∧
    (∀ c, a.control = some c → c.gain ≤ 256 ∧ 1 ≤ c.maxStep ∧ c.maxStep ≤ 100 ∧ 1 ≤ c.minRate ∧ c.minRate ≤ 10000 ∧
      2 ≤ c.depth ∧ c.depth ≤ 8) ∧
    (∀ e, a.endpoint = some e → e.margin ≤ 5000 ∧ 1 ≤ e.confirm ∧ e.confirm ≤ 8 ∧
      ∀ z, (∀ n, (e.zones.get z).target = some n → n ≤ 200000) ∧
        ∀ n, (e.zones.get z).cleared = some n → n ≤ 1000 ∧ (e.zones.get z).target ≠ none) ∧
    (m ≠ .time ∨ a.control ≠ none → ∃ e z, a.endpoint = some e ∧ (e.zones.get z).target ≠ none) ∧
    (∀ n, a.pad = some n → n ≤ 7) := by
  have target : (m = .time ∨ hasTarget a.endpoint = true) ∧ (a.control = none ∨ hasTarget a.endpoint = true) ↔
      (m ≠ .time ∨ a.control ≠ none → hasTarget a.endpoint = true) := by
    by_cases timed : m = .time <;> by_cases steered : a.control = none <;> simp [timed, steered]
  rw [← hasTarget_iff, ← target]
  simp only [stepFieldsOk, Bool.and_eq_true, Bool.or_eq_true, decide_eq_true_eq, PerArea.all_toList, option_all_iff,
    controlOk_iff, endpointOk_iff, within_iff, Nat.zero_le, true_and, Option.isNone_iff_eq_none, and_assoc]
  constructor
  · rintro ⟨low, high, base, bounds, rest⟩
    exact ⟨low, high, base, fun b x given => bounds b given x, rest⟩
  · rintro ⟨low, high, base, bounds, rest⟩
    exact ⟨low, high, base, fun b given x => bounds b x given, rest⟩

theorem boundsOk_iff {b : PerArea Bounds} : boundsOk true b = true ↔ ∀ x, (b.get x).lo ≤ (b.get x).hi := by
  simp only [boundsOk, Bool.not_true, Bool.false_or, PerArea.all_toList, decide_eq_true_eq]

theorem effectiveBounds_given (l : LimitBlock) (b : PerArea Bounds) (x : Area) :
    (effectiveBounds l (some b)).get x =
      { lo := max (b.get x).lo (l.areas.get x).min, hi := min (b.get x).hi (l.areas.get x).max } :=
  PerArea.get_tabulate _ x

theorem effectiveBounds_none (l : LimitBlock) (x : Area) :
    (effectiveBounds l none).get x = { lo := (l.areas.get x).min, hi := (l.areas.get x).max } := PerArea.get_tabulate _ x

/-- A limit block that keeps R172 holds its minima below its maxima. -/
theorem area_min_le_max {l : LimitBlock} (ok : limitsOk l = true) (x : Area) : (l.areas.get x).min ≤ (l.areas.get x).max := by
  simp only [limitsOk, Bool.and_eq_true] at ok
  have areas : l.areas.toList.all areaLimitOk = true := by
    obtain ⟨ok, -⟩ := ok
    tauto
  have area := PerArea.all_toList.mp areas x
  simp only [areaLimitOk, Bool.and_eq_true, decide_eq_true_eq] at area
  omega

/-- Effective bounds that pass the check lie in order inside the limit block's (R5). -/
theorem effectiveBounds_inside {l : LimitBlock} {o : Option (PerArea Bounds)} (ok : limitsOk l = true)
    (bounds : boundsOk o.isSome (effectiveBounds l o) = true) (x : Area) :
    (l.areas.get x).min ≤ ((effectiveBounds l o).get x).lo ∧
    ((effectiveBounds l o).get x).lo ≤ ((effectiveBounds l o).get x).hi ∧
    ((effectiveBounds l o).get x).hi ≤ (l.areas.get x).max ∧
    (o = none → (effectiveBounds l o).get x = { lo := (l.areas.get x).min, hi := (l.areas.get x).max }) := by
  cases o with
  | none =>
    rw [effectiveBounds_none]
    exact ⟨Nat.le_refl _, area_min_le_max ok x, Nat.le_refl _, fun _ => rfl⟩
  | some b =>
    have inOrder := boundsOk_iff.mp bounds x
    rw [effectiveBounds_given] at inOrder ⊢
    exact ⟨Nat.le_max_right _ _, inOrder, Nat.min_le_right _ _, fun none => nomatch none⟩

/-! LOAD_STEP (R3). -/

theorem ownLoadStep_of_free {r : Request} {s : State} {a : StepArgs} {l : LimitBlock} (index : a.index ≤ 31)
    (limits : s.mgmt.limits = some l) (free : stepInUse s a.index = false) :
    ownLoadStep r a s = match endModeOfCode a.endMode with
      | none => refuse s .invalid
      | some m =>
        if stepFieldsOk a m && boundsOk a.bounds.isSome (effectiveBounds l a.bounds) then
          ({ s with steps := tablePut s.steps a.index (stepRecord a m (effectiveBounds l a.bounds)) },
            doneWith (boundsBytes (effectiveBounds l a.bounds)))
        else refuse s .invalid := by
  rw [ownLoadStep, if_neg (by omega), limits]
  exact if_neg (Bool.eq_false_iff.mp free)

@[simp] theorem served_stepInUse (r : Request) (s : State) (i : Nat) : stepInUse (served r s) i = stepInUse s i :=
  served_field (fun t => stepInUse t i) (fun _ _ _ => rfl) r s

/-- Settles O29, check by check. -/
theorem loadStepStoresTheRecord : Obligations.LoadStepStoresTheRecord := by
  refine ⟨fun r s a adm walk => ⟨fun high => ?_, fun index unwritten => ?_, fun l index limits => ⟨fun busy => ?_,
      fun free bad => ?_⟩⟩, fun s i => stepInUse_iff, fun a m => stepFieldsOk_iff, fun b l => ?_,
    fun r s a m l adm walk index limits free mode fields bounds => ?_⟩
  · exact request_refused 9 adm walk (if_pos high)
  · refine request_refused 9 adm walk ?_
    rw [ownLoadStep, if_neg (by omega), served_limits, unwritten]
  · refine request_refused 9 adm walk ?_
    rw [ownLoadStep, if_neg (by omega), served_limits, limits]
    exact if_pos ((served_stepInUse r s a.index).trans busy)
  · refine request_refused 9 adm walk ?_
    rw [ownLoadStep_of_free index (by rw [served_limits, limits]) (by rw [served_stepInUse, free])]
    rcases bad with noMode | ⟨m, mode, bad⟩
    · rw [noMode]
    · rw [mode]
      exact if_neg (by rcases bad with bad | bad <;> simp [bad])
  · simp only [boundsOk_iff, effectiveBounds_given]
  · refine ⟨tablePut s.steps a.index (stepRecord a m (effectiveBounds l a.bounds)), ?_, ?_, ?_, ?_⟩
    · refine request_completes 9 adm walk ?_ (served_resetTaken r s)
      rw [ownLoadStep_of_free index (by rw [served_limits, limits]) (by rw [served_stepInUse, free]), mode, served_steps]
      exact if_pos (by rw [fields, bounds]; rfl)
    · exact tableGet_tablePut_same ..
    · exact fun i other => tableGet_tablePut_of_ne _ _ other
    · exact fun ok x => effectiveBounds_inside ok bounds x

end Sys2Proof.Machine


/-! ## Loading programs, zone maps and the pad's tables (R6, R37, R38, R71, R81, R87) -/

namespace Sys2Proof.Machine

/-! LOAD_PROGRAM and LOAD_ZONE_MAP (R6, R38). -/

/-- Zone numbers never fall exactly when the codes that stand in the map are in order (R37). -/
theorem zonesRise_iff {least : Nat} {m : List (Option Zone)} : zonesRise least m = true ↔
    (∀ c ∈ m.filterMap (Option.map zoneCode), least ≤ c) ∧ (m.filterMap (Option.map zoneCode)).Pairwise (· ≤ ·) := by
  induction m generalizing least with
  | nil => simp [zonesRise]
  | cons x m ih =>
    cases x with
    | none => simpa [zonesRise] using ih
    | some z =>
      simp only [zonesRise, Bool.and_eq_true, decide_eq_true_eq, ih, List.filterMap_cons, Option.map_some,
        List.pairwise_cons, List.forall_mem_cons]
      exact ⟨fun ⟨first, later, rises⟩ => ⟨⟨first, fun c mem => first.trans (later c mem)⟩, later, rises⟩,
        fun ⟨⟨first, _⟩, later, rises⟩ => ⟨first, later, rises⟩⟩

theorem zoneMapOk_of_rises {m : List (Option Zone)} (stands : ∃ z, some z ∈ m)
    (rises : (m.filterMap (Option.map zoneCode)).Pairwise (· ≤ ·)) : zoneMapOk m = true := by
  obtain ⟨z, mem⟩ := stands
  rw [zoneMapOk, Bool.and_eq_true, zonesRise_iff]
  exact ⟨List.any_eq_true.mpr ⟨some z, mem, rfl⟩, fun _ _ => Nat.zero_le _, rises⟩

theorem programArgs_ok {p : List Nat} (low : 1 ≤ p.length) (high : p.length ≤ 12) (steps : ∀ i ∈ p, i ≤ 31) :
    (within 1 12 p.length && p.all (within 0 31)) = true := by
  rw [Bool.and_eq_true, within_iff, List.all_eq_true]
  exact ⟨⟨low, high⟩, fun i mem => within_iff.mpr ⟨Nat.zero_le _, steps i mem⟩⟩

/-- Settles O30: the checks pass, or the head works. -/
theorem headsAreLoaded : Obligations.HeadsAreLoaded := by
  refine fun r s h adm => ⟨fun p walk low high steps => ⟨fun loaded free => ?_, fun works => ?_⟩,
    fun codes m walk named => ⟨fun free stands rises => ?_, fun works => ?_⟩⟩
  · have ok := programArgs_ok low high steps
    have known : (p.all fun i => (tableGet s.steps i).isSome) = true :=
      List.all_eq_true.mpr fun i mem => Option.isSome_iff_ne_none.mpr (loaded i mem)
    refine request_completes 13 adm walk ?_ (served_resetTaken r s)
    simp only [ownLoadProgram, headOfCode_headCode, ok, served_headWorking, free, served_steps, known, Bool.not_true,
      Bool.false_eq_true, if_false, if_true, served_seq]
    rfl
  · have ok := programArgs_ok low high steps
    refine request_refused 13 adm walk ?_
    simp only [ownLoadProgram, headOfCode_headCode, ok, served_headWorking, works, Bool.not_true, Bool.false_eq_true,
      if_false, if_true]
  · refine request_completes 8 adm walk ?_ (served_resetTaken r s)
    simp only [ownLoadZoneMap, headOfCode_headCode, named, served_headWorking, free, zoneMapOk_of_rises stands rises,
      Bool.false_eq_true, if_false, if_true]
    cases h <;> rfl
  · refine request_refused 8 adm walk ?_
    simp only [ownLoadZoneMap, headOfCode_headCode, named, served_headWorking, works, if_true]

/-! What is in use (R71, R81, R87). -/

theorem mem_workingEntries {s : State} {e : Nat} : e ∈ workingEntries s ↔ namedByWork s e := by
  have step : ∀ i, (tableGet s.steps i).bind StepRecord.pad = some e ↔
      ∃ st, tableGet s.steps i = some st ∧ st.pad = some e := fun i => Option.bind_eq_some_iff
  simp only [workingEntries, List.mem_filterMap, List.mem_append, mem_workingSteps, step]
  constructor
  · rintro ⟨i, ⟨p, works, program, mem⟩ | ⟨p, works, program, mem⟩, st, loaded, pad⟩
    · exact ⟨.a, p, i, st, works, program, mem, loaded, pad⟩
    · exact ⟨.b, p, i, st, works, program, mem, loaded, pad⟩
  · rintro ⟨h, p, i, st, works, program, mem, loaded, pad⟩
    cases h with
    | a => exact ⟨i, .inl ⟨p, works, program, mem⟩, st, loaded, pad⟩
    | b => exact ⟨i, .inr ⟨p, works, program, mem⟩, st, loaded, pad⟩

theorem entryInUse_iff {s : State} {n : Nat} : entryInUse s n = true ↔
    s.arb.service.map Grant.entry = some n ∨ (∃ h, (h, n) ∈ s.arb.waiting) ∨ namedByWork s n := by
  have waits : (∃ x ∈ s.arb.waiting, x.2 = n) ↔ ∃ h, (h, n) ∈ s.arb.waiting :=
    ⟨fun ⟨⟨h, _⟩, mem, same⟩ => ⟨h, same ▸ mem⟩, fun ⟨h, mem⟩ => ⟨(h, n), mem, rfl⟩⟩
  have granted : decide (grantedEntry s = some n) = true ↔ s.arb.service.map Grant.entry = some n := decide_eq_true_iff
  simp only [entryInUse, Bool.or_eq_true, granted, decide_eq_true_eq, List.any_eq_true, waits, List.contains_iff_mem,
    mem_workingEntries, or_assoc]

theorem mem_liveEntries {s : State} {e : Nat} :
    e ∈ liveEntries s ↔ s.arb.service.map Grant.entry = some e ∨ namedByWork s e := by
  simp only [liveEntries, List.mem_append, Option.mem_toList, grantedEntry, mem_workingEntries]

/-- A live entry names something by a field. -/
theorem any_liveEntries_iff {s : State} {n : Nat} (field : PadService → Option Nat) :
    ((liveEntries s).any fun e => decide ((tableGet s.arb.table e).bind field = some n)) = true ↔
      ∃ e p, (s.arb.service.map Grant.entry = some e ∨ namedByWork s e) ∧ tableGet s.arb.table e = some p ∧
        field p = some n := by
  simp only [List.any_eq_true, mem_liveEntries, decide_eq_true_eq, Option.bind_eq_some_iff]
  exact ⟨fun ⟨e, live, p, loaded, named⟩ => ⟨e, p, live, loaded, named⟩,
    fun ⟨e, p, live, loaded, named⟩ => ⟨e, live, p, loaded, named⟩⟩

section

variable (r : Request) (s : State) (n : Nat)

@[simp] theorem served_blendInUse : blendInUse (served r s) n = blendInUse s n :=
  served_field (fun t => blendInUse t n) (fun _ _ _ => rfl) r s

@[simp] theorem served_conditioningInUse : conditioningInUse (served r s) n = conditioningInUse s n :=
  served_field (fun t => conditioningInUse t n) (fun _ _ _ => rfl) r s

@[simp] theorem served_entryInUse : entryInUse (served r s) n = entryInUse s n :=
  served_field (fun t => entryInUse t n) (fun _ _ _ => rfl) r s

@[simp] theorem served_namesLoaded (p : PadService) : namesLoaded (served r s) p = namesLoaded s p :=
  served_field (fun t => namesLoaded t p) (fun _ _ _ => rfl) r s

end

/-! The checks of the three requests. -/

theorem blendOk_iff {b : Blend} : blendOk b = true ↔ b.flow ≤ 1000 ∧ b.ratio1 ≤ 1000 ∧ b.ratio2 ≤ 1000 ∧
    b.ratio3 ≤ 1000 ∧ b.rinse ≤ 2000 ∧ b.ratio1 + b.ratio2 + b.ratio3 = 1000 := by
  simp only [blendOk, Bool.and_eq_true, within_iff, Nat.zero_le, true_and, decide_eq_true_eq, and_assoc]

theorem condProgramOk_iff {p : CondProgram} : condProgramOk p = true ↔ p.force ≤ 500 ∧ p.speed ≤ 150 ∧
    1 ≤ p.segments.length ∧ p.segments.length ≤ 16 ∧
      ∀ x ∈ p.segments, x.position ≤ 4000 ∧ 10 ≤ x.dwell ∧ x.dwell ≤ 60000 := by
  simp only [condProgramOk, segmentOk, Bool.and_eq_true, within_iff, Nat.zero_le, true_and, List.all_eq_true, and_assoc]

/-- A conjunction of checks fails with its first or its second. -/
theorem checks_fail {a b : Bool} (bad : a = false ∨ b = false) : (!(a && b)) = true := by
  rcases bad with rfl | rfl <;> simp

theorem within_of_above {hi x : Nat} (above : hi < x) : within 0 hi x = false := by
  simp [within, above]

theorem namesLoaded_iff {s : State} {p : PadService} : namesLoaded s p = true ↔
    (∀ b, p.blend = some b → tableGet s.dose.blends b ≠ none) ∧
    ∀ k, p.program = some k → tableGet s.cdr.programs k ≠ none := by
  simp only [namesLoaded, Bool.and_eq_true, option_all_iff, Option.isSome_iff_ne_none]

/-- The ranges of the indices that a LOAD_PAD_SERVICE names (R71). -/
theorem padIndices_iff {i : Nat} {p : PadService} :
    (within 0 7 i && p.blend.all (within 0 7) && p.program.all (within 0 3)) = true ↔
      i ≤ 7 ∧ (∀ b, p.blend = some b → b ≤ 7) ∧ ∀ k, p.program = some k → k ≤ 3 := by
  simp only [Bool.and_eq_true, option_all_iff, within_iff, Nat.zero_le, true_and, and_assoc]

theorem ownLoadPadService_of_ok {r : Request} {s : State} {i : Nat} {p : PadService} (index : i ≤ 7)
    (blend : ∀ b, p.blend = some b → b ≤ 7) (program : ∀ k, p.program = some k → k ≤ 3) :
    ownLoadPadService r { entry := i, service := p } s =
      if entryInUse s i then refuse s .state
      else if namesLoaded s p then (s.setArb { s.arb with table := tablePut s.arb.table i p }, doneAnswer)
      else refuse s .notReady := by
  have ok := padIndices_iff.mpr ⟨index, blend, program⟩
  simp only [ownLoadPadService, ok, Bool.not_true, Bool.false_eq_true, if_false]

/-! The three requests. -/

theorem loadBlend_refuses {r : Request} {s : State} {i : Nat} {b : Blend} (adm : Admitted r s)
    (walk : wholeWalk blendArgs r.args = some { index := i, blend := b }) :
    (7 < i ∨ blendOk b = false → exec (.loadBlend r) s = completes r .invalid [] (served r s)) ∧
    (i ≤ 7 → blendOk b = true → blendInUse s i = true →
      exec (.loadBlend r) s = completes r .state [] (served r s)) := by
  refine ⟨fun bad => request_refused 10 adm walk (if_pos (checks_fail (bad.imp_left within_of_above))),
    fun index ok used => request_refused 10 adm walk ?_⟩
  have inside := within_iff.mpr ⟨Nat.zero_le i, index⟩
  simp only [ownLoadBlend, inside, ok, served_blendInUse, used, Bool.and_true, Bool.not_true, Bool.false_eq_true, if_false,
    if_true]

theorem loadConditioning_refuses {r : Request} {s : State} {i : Nat} {p : CondProgram} (adm : Admitted r s)
    (walk : wholeWalk conditioningArgs r.args = some { index := i, program := p }) :
    (3 < i ∨ condProgramOk p = false → exec (.loadConditioning r) s = completes r .invalid [] (served r s)) ∧
    (i ≤ 3 → condProgramOk p = true → conditioningInUse s i = true →
      exec (.loadConditioning r) s = completes r .state [] (served r s)) := by
  refine ⟨fun bad => request_refused 11 adm walk (if_pos (checks_fail (bad.imp_left within_of_above))),
    fun index ok used => request_refused 11 adm walk ?_⟩
  have inside := within_iff.mpr ⟨Nat.zero_le i, index⟩
  simp only [ownLoadConditioning, inside, ok, served_conditioningInUse, used, Bool.and_true, Bool.not_true,
    Bool.false_eq_true, if_false, if_true]

theorem loadPadService_refuses {r : Request} {s : State} {i : Nat} {p : PadService} (adm : Admitted r s)
    (walk : wholeWalk padServiceArgs r.args = some { entry := i, service := p }) :
    (7 < i ∨ (∃ b, p.blend = some b ∧ 7 < b) ∨ (∃ k, p.program = some k ∧ 3 < k) →
      exec (.loadPadService r) s = completes r .invalid [] (served r s)) ∧
    (i ≤ 7 → (∀ b, p.blend = some b → b ≤ 7) → (∀ k, p.program = some k → k ≤ 3) →
      (entryInUse s i = true → exec (.loadPadService r) s = completes r .state [] (served r s)) ∧
      (entryInUse s i = false →
        (∃ b, p.blend = some b ∧ tableGet s.dose.blends b = none) ∨
          (∃ k, p.program = some k ∧ tableGet s.cdr.programs k = none) →
        exec (.loadPadService r) s = completes r .notReady [] (served r s))) := by
  refine ⟨fun bad => request_refused 12 adm walk (if_pos ?_), fun index blend program => ⟨fun used => ?_,
    fun free empty => ?_⟩⟩
  · rw [Bool.not_eq_true', Bool.eq_false_iff, ne_eq, padIndices_iff]
    rintro ⟨index, blend, program⟩
    rcases bad with high | ⟨b, named, high⟩ | ⟨k, named, high⟩
    · exact absurd index (Nat.not_le.mpr high)
    · have := blend b named
      omega
    · have := program k named
      omega
  · refine request_refused 12 adm walk ((ownLoadPadService_of_ok index blend program).trans (if_pos ?_))
    rw [served_entryInUse, used]
  · have missing : ¬namesLoaded s p = true := by
      rw [namesLoaded_iff]
      rintro ⟨blends, programs⟩
      rcases empty with ⟨b, named, none⟩ | ⟨k, named, none⟩
      · exact blends b named none
      · exact programs k named none
    refine request_refused 12 adm walk ((ownLoadPadService_of_ok index blend program).trans ?_)
    rw [served_entryInUse, free, served_namesLoaded, if_neg Bool.false_ne_true, if_neg missing]

/-- Settles O31: what is in use, the refusals, and the entry that is written. -/
theorem padTablesAreLoaded : Obligations.PadTablesAreLoaded := by
  refine ⟨fun b => blendOk_iff, fun p => condProgramOk_iff,
    fun s n => ⟨entryInUse_iff, any_liveEntries_iff PadService.blend, any_liveEntries_iff PadService.program⟩,
    fun r s adm => ⟨fun i b => loadBlend_refuses adm, fun i p => loadConditioning_refuses adm,
      fun i p => loadPadService_refuses adm, fun i b walk index ok free => ?_, fun i p walk index ok free => ?_,
      fun i p walk index blend program free => ?_⟩⟩
  · have inside := within_iff.mpr ⟨Nat.zero_le i, index⟩
    refine ⟨tablePut s.dose.blends i b, request_completes 10 adm walk ?_ (served_resetTaken r s),
      tableGet_tablePut_same .., fun j other => tableGet_tablePut_of_ne _ _ other⟩
    simp only [ownLoadBlend, inside, ok, served_blendInUse, free, served_dose, Bool.and_true, Bool.not_true,
      Bool.false_eq_true, if_false]
    rfl
  · have inside := within_iff.mpr ⟨Nat.zero_le i, index⟩
    refine ⟨tablePut s.cdr.programs i p, request_completes 11 adm walk ?_ (served_resetTaken r s),
      tableGet_tablePut_same .., fun j other => tableGet_tablePut_of_ne _ _ other⟩
    simp only [ownLoadConditioning, inside, ok, served_conditioningInUse, free, served_cdr, Bool.and_true, Bool.not_true,
      Bool.false_eq_true, if_false]
    rfl
  · have loaded := namesLoaded_iff.mpr ⟨fun b named => (blend b named).2, fun k named => (program k named).2⟩
    refine ⟨tablePut s.arb.table i p, request_completes 12 adm walk ?_ (served_resetTaken r s),
      tableGet_tablePut_same .., fun j other => tableGet_tablePut_of_ne _ _ other⟩
    rw [ownLoadPadService_of_ok index (fun b named => (blend b named).1) (fun k named => (program k named).1),
      served_entryInUse, free, served_namesLoaded, loaded, served_arb]
    rfl

end Sys2Proof.Machine


/-! ## What is sent is read back (R172, R183, R197) -/

namespace Sys2Proof.Machine

/-- A walk reads these bytes as this value and goes on behind them. -/
structure Reads {α : Type} (p : Walk α) (x : α) (bs : List Byte) : Prop where
  goesOn : ∀ rest, p (bs ++ rest) = some (x, rest)

namespace Reads

variable {α β : Type}

theorem whole {p : Walk α} {x : α} {bs : List Byte} (reads : Reads p x bs) : wholeWalk p bs = some x := by
  have all := reads.goesOn []
  rw [List.append_nil] at all
  rw [wholeWalk, all]

theorem pure (x : α) : Reads (walkPure x) x [] := ⟨fun _ => rfl⟩

theorem andThen {p : Walk α} {q : α → Walk β} {x : α} {y : β} {bs cs : List Byte} (first : Reads p x bs)
    (then' : Reads (q x) y cs) : Reads (walkThen p q) y (bs ++ cs) := ⟨fun rest => by
  rw [List.append_assoc, walkThen_some (first.goesOn (cs ++ rest)), then'.goesOn rest]⟩

theorem andPure {p : Walk α} {f : α → β} {x : α} {bs : List Byte} (last : Reads p x bs) :
    Reads (walkThen p fun x => walkPure (f x)) (f x) bs := ⟨fun rest => by
  rw [walkThen_some (last.goesOn rest)]
  rfl⟩

theorem byte {n : Nat} (low : n < 256) : Reads Machine.byte n (u8 n) := ⟨fun rest => by
  show some ((BitVec.ofNat 8 n).toNat, rest) = _
  rw [byte_toNat low]⟩

theorem word {n : Nat} (low : n < 65536) : Reads Machine.word n (u16 n) := ⟨fun rest => by
  show some (be16 (BitVec.ofNat 8 (n / 256)) (BitVec.ofNat 8 n), rest) = _
  have value : be16 (BitVec.ofNat 8 (n / 256)) (BitVec.ofNat 8 n) = n := by
    simp only [be16, BitVec.toNat_ofNat]
    omega
  rw [value]⟩

theorem long {n : Nat} (low : n < 4294967296) : Reads Machine.long n (u32 n) := ⟨fun rest => by
  have value : be16 ((BitVec.ofNat 32 n).extractLsb' 24 8) ((BitVec.ofNat 32 n).extractLsb' 16 8) * 65536 +
      be16 ((BitVec.ofNat 32 n).extractLsb' 8 8) ((BitVec.ofNat 32 n).extractLsb' 0 8) = n := by
    simp only [be16, BitVec.extractLsb'_toNat, BitVec.toNat_ofNat, Nat.shiftRight_eq_div_pow]
    omega
  show some (_, rest) = _
  rw [value]⟩

theorem signedWord {z : Int} (low : -32768 ≤ z) (high : z ≤ 32767) : Reads Machine.signedWord z (i16 z) := by
  have reads := andPure (f := fun n => (BitVec.ofNat 16 n).toInt) (word (BitVec.ofInt 16 z).isLt)
  have value : (BitVec.ofNat 16 (BitVec.ofInt 16 z).toNat).toInt = z := by
    rw [BitVec.ofNat_toNat, BitVec.setWidth_eq, BitVec.toInt_ofInt]
    exact Int.bmod_eq_of_le (by omega) (by omega)
  rw [value] at reads
  exact reads

/-- Fields with a bound that their width holds. -/
theorem byteUpTo {n : Nat} (most : Nat) (upTo : n ≤ most) (fits : most < 256 := by decide) : Reads Machine.byte n (u8 n) :=
  byte (Nat.lt_of_le_of_lt upTo fits)

theorem wordUpTo {n : Nat} (most : Nat) (upTo : n ≤ most) (fits : most < 65536 := by decide) :
    Reads Machine.word n (u16 n) := word (Nat.lt_of_le_of_lt upTo fits)

theorem longUpTo {n : Nat} (most : Nat) (upTo : n ≤ most) (fits : most < 4294967296 := by decide) :
    Reads Machine.long n (u32 n) := long (Nat.lt_of_le_of_lt upTo fits)

theorem times {p : Walk α} {write : α → List Byte} {xs : List α} (each : ∀ x ∈ xs, Reads p x (write x)) :
    Reads (Machine.times p xs.length) xs (xs.flatMap write) := by
  induction xs with
  | nil => exact pure []
  | cons x xs ih =>
    rw [List.flatMap_cons]
    exact (each x List.mem_cons_self).andThen (ih fun y mem => each y (List.mem_cons_of_mem _ mem)).andPure

theorem zones {p : Walk α} {write : α → List Byte} {t : PerZone α} (each : ∀ z, Reads p (t.get z) (write (t.get z))) :
    Reads (zonesField p) t (t.toList.flatMap write) := by
  have bytes : t.toList.flatMap write = write t.z1 ++ (write t.z2 ++ (write t.z3 ++ (write t.z4 ++ (write t.z5 ++
      write t.z6)))) := by
    simp [PerZone.toList, Zone.all, PerZone.get]
  rw [bytes]
  exact (each .z1).andThen ((each .z2).andThen ((each .z3).andThen ((each .z4).andThen ((each .z5).andThen
    (each .z6).andPure))))

theorem areas {p : Walk α} {write : α → List Byte} {t : PerArea α} (each : ∀ a, Reads p (t.get a) (write (t.get a))) :
    Reads (areasField p) t (t.toList.flatMap write) := by
  have bytes : t.toList.flatMap write = t.zones.toList.flatMap write ++ write t.ring := by
    simp [PerArea.toList, PerZone.toList, Area.all, Zone.all, PerArea.get]
  rw [bytes]
  exact (zones fun z => each (.zone z)).andThen (each .ring).andPure

theorem fns {p : Walk α} {write : α → List Byte} {t : PerFn α} (each : ∀ f, Reads p (t.get f) (write (t.get f))) :
    Reads (fnsField p) t (t.toList.flatMap write) := by
  have bytes : t.toList.flatMap write = t.ha.toList.flatMap write ++ (t.hb.toList.flatMap write ++ (write t.dose1 ++
      (write t.dose2 ++ (write t.dose3 ++ (write t.rinse ++ (write t.arm ++ (write t.force ++ write t.disk))))))) := by
    simp [PerFn.toList, PerArea.toList, Fn.all, Area.all, PerFn.get]
  rw [bytes]
  refine (areas fun a => each (.head .a a)).andThen ((areas fun a => each (.head .b a)).andThen ?_)
  refine (each .dose1).andThen ((each .dose2).andThen ((each .dose3).andThen ((each .rinse).andThen ?_)))
  exact (each .arm).andThen ((each .force).andThen (each .disk).andPure)

end Reads

/-! The limit block (R172). -/

theorem areaLimit_reads {a : AreaLimit} (ok : areaLimitOk a = true) : Reads areaLimitField a (areaLimitBytes a) := by
  simp only [areaLimitOk, Bool.and_eq_true, within_iff, decide_eq_true_eq, and_assoc] at ok
  obtain ⟨-, min, -, max, -, hold, -⟩ := ok
  have bytes : areaLimitBytes a = u16 a.min ++ (u16 a.max ++ u16 a.hold) := List.append_assoc ..
  rw [bytes]
  exact (Reads.wordUpTo 1000 min).andThen ((Reads.wordUpTo 1000 max).andThen (Reads.wordUpTo 1000 hold).andPure)

theorem limitBytes_eq (l : LimitBlock) : limitBytes l = l.areas.toList.flatMap areaLimitBytes ++ (u8 l.pressureBand ++
    (u16 l.pressureDwell ++ (u16 l.dose1Max ++ (u16 l.dose2Max ++ (u16 l.dose3Max ++ (u16 l.totalMax ++ (u16 l.rinseMax ++
    (u16 l.holdRinse ++ (u16 l.flowBand ++ (u16 l.flowDwell ++ (u16 l.forceMax ++ (u8 l.diskMax ++ (u16 l.armMin ++
    (u16 l.armMax ++ (u16 l.park ++ (u8 l.armTolerance ++ (u16 l.arrivalTimeout ++ (u16 l.supervisionTimeout ++
    (u16 l.sampleGapTimeout ++ (u32 l.padLife ++ u32 l.diskLife)))))))))))))))))))) := by
  unfold limitBytes
  simp only [List.append_assoc]

theorem limits_reads {l : LimitBlock} (ok : limitsOk l = true) : Reads limitsArgs l (limitBytes l) := by
  simp only [limitsOk, Bool.and_eq_true, within_iff, decide_eq_true_eq, PerArea.all_toList, and_assoc] at ok
  have ⟨areas, _, pressureBand, _, pressureDwell, _, dose1, _, dose2, _, dose3, _, total, _, rinse, _, holdRinse, _,
    flowBand, _, flowDwell, _, force, _, disk, _, armMin, _, armMax, _, park, _, _, _, tolerance, _, arrival, _,
    supervision, _, gap, _, padLife, _, diskLife⟩ := ok
  rw [limitBytes_eq]
  refine (Reads.areas fun a => areaLimit_reads (areas a)).andThen ?_
  refine (Reads.byteUpTo _ pressureBand).andThen ((Reads.wordUpTo _ pressureDwell).andThen ?_)
  refine (Reads.wordUpTo _ dose1).andThen ((Reads.wordUpTo _ dose2).andThen ((Reads.wordUpTo _ dose3).andThen ?_))
  refine (Reads.wordUpTo _ total).andThen ((Reads.wordUpTo _ rinse).andThen
    ((Reads.wordUpTo _ (holdRinse.trans rinse)).andThen ?_))
  refine (Reads.wordUpTo _ flowBand).andThen ((Reads.wordUpTo _ flowDwell).andThen ((Reads.wordUpTo _ force).andThen ?_))
  refine (Reads.byteUpTo _ disk).andThen ((Reads.wordUpTo _ armMin).andThen ((Reads.wordUpTo _ armMax).andThen ?_))
  refine (Reads.wordUpTo _ park).andThen ((Reads.byteUpTo _ tolerance).andThen ((Reads.wordUpTo _ arrival).andThen ?_))
  refine (Reads.wordUpTo _ supervision).andThen ((Reads.wordUpTo _ gap).andThen ((Reads.longUpTo _ padLife).andThen ?_))
  exact (Reads.longUpTo _ diskLife).andPure

/-! The records (R183). -/

theorem point_reads {p : CalPoint} (raw : p.raw ≤ 65535) (thick : p.thick ≤ 200000) :
    Reads (walkThen word fun raw => walkThen long fun t => walkPure (CalPoint.mk raw t)) p (pointBytes p) :=
  (Reads.wordUpTo _ raw).andThen (Reads.longUpTo _ thick).andPure

/-- A record's bytes follow its code. -/
theorem stage_reads {x : RecordName} {a : StagedArgs} {bs : List Byte} {p : Walk StagedArgs} (reads : Reads p a bs)
    (layout : stageArgs (BitVec.ofNat 8 (recordCode x) :: bs) = p bs) :
    wholeWalk stageArgs (BitVec.ofNat 8 (recordCode x) :: bs) = some a := by
  rw [wholeWalk, layout]
  exact reads.whole

/-- Settles O52, field by field. -/
theorem whatIsSentIsReadBack : Obligations.WhatIsSentIsReadBack := by
  refine ⟨fun l ok => (limits_reads ok).whole, fun ps count points => ?_, fun os offsets => ?_, fun w ok => ?_, fun p => ?_⟩
  · have reads := Reads.times (write := pointBytes) fun p mem => point_reads (points p mem).1 (points p mem).2
    rw [count] at reads
    exact stage_reads reads.andPure rfl
  · have reads := Reads.fns (p := signedWord) (write := i16) (t := os) fun f =>
      Reads.signedWord (by have := offsets f; omega) (by have := offsets f; omega)
    exact stage_reads reads.andPure rfl
  · obtain ⟨pad, disk, padCount, diskCount, wafers⟩ := ok
    have bytes : wearBytes w = u32 w.pad ++ (u32 w.disk ++ (u16 w.padCount ++ (u16 w.diskCount ++ u32 w.wafers))) := by
      simp only [wearBytes, List.append_assoc]
    rw [contentBytes, bytes]
    have reads : Reads (walkThen long fun p => walkThen long fun d => walkThen word fun pc => walkThen word fun dc =>
        walkThen long fun wafers => walkPure (StagedArgs.wear ⟨p, d, pc, dc, wafers⟩)) (.wear w) _ :=
      (Reads.longUpTo _ pad).andThen ((Reads.longUpTo _ disk).andThen ((Reads.wordUpTo _ padCount).andThen
        ((Reads.wordUpTo _ diskCount).andThen (Reads.longUpTo _ wafers).andPure)))
    exact stage_reads reads rfl
  · obtain ⟨sensor, channel⟩ := p
    cases sensor <;> cases channel <;> rfl

end Sys2Proof.Machine


/-! ## Station reset (R179, R180) -/

namespace Sys2Proof.Machine

/-! Actions in a station at rest (R22, R23, R78). -/

/-- TRANSPARENT mode, no head in a step, and the pad granted to nobody. -/
structure AtRest (s : State) : Prop where
  transparent : s.active = false
  heads       : ∀ h, (s.seq h).state.inStep = false
  free        : s.arb.service = none

theorem writeHoldValues_of_not_active {s : State} (still : s.active = false) : writeHoldValues s = s := by
  rw [writeHoldValues_eq, writeDosing_of_not_active still, writeSlots_of_not_active still]

theorem pauseAction_of_not_inStep {h : Head} {s : State} (out : (s.seq h).state.inStep = false) : pauseAction h s = s :=
  pauseAction_of_not_polishing fun polishing => by simp [polishing, HeadState.inStep] at out

/-- Station hold begins in a station at rest: nothing but the flag, the program's stop and the event (R78). -/
theorem beginHold_of_atRest {s : State} (rest : AtRest s) (off : s.arb.hold = false) :
    beginHold s = queueEvent .stationHold none [] { s with
      arb := { s.arb with hold := true }, cdr := { s.cdr with run := none } } := by
  have none : { s.arb with service := none, hold := true } = { s.arb with hold := true } := by rw [← rest.free]
  have still : (stopProgram (s.setArb { s.arb with service := .none, hold := true })).active = false := rest.transparent
  rw [beginHold, off, if_neg Bool.false_ne_true, writeHoldValues_of_not_active still, none]
  rfl

theorem beginHold_of_held {s : State} (rest : AtRest s) (on : s.arb.hold = true) : beginHold s = s := by
  rw [beginHold, if_pos on, writeHoldValues_of_not_active rest.transparent]

theorem holdBoth_of_atRest {s : State} (heads : ∀ h, (s.seq h).state.inStep = false) :
    holdAction .b (holdAction .a s) = s := by
  rw [holdAction_of_not_inStep (heads .a), holdAction_of_not_inStep (heads .b)]

/-- An action finds nothing to move in a station at rest, unless it begins station hold. -/
theorem applyAction_of_atRest {s : State} (rest : AtRest s) (k : SourceId) :
    applyAction k s = s ∨ (s.arb.hold = false ∧ applyAction k s = queueEvent .stationHold none [] { s with
      arb := { s.arb with hold := true }, cdr := { s.cdr with run := none } }) := by
  cases action : (s.source k).action with
  | note => exact .inl (applyAction_still (.inl action))
  | reset => exact .inl (applyAction_still (.inr action))
  | pause =>
    cases scope : scopeHead k (s.source k).data with
    | some h => exact .inl (by rw [applyAction_pause_head action scope, pauseAction_of_not_inStep (rest.heads h)])
    | none =>
      refine .inl ?_
      rw [applyAction_pause_station action scope, pauseAction_of_not_inStep (rest.heads .a),
        pauseAction_of_not_inStep (rest.heads .b)]
  | hold =>
    cases scope : scopeHead k (s.source k).data with
    | some h => exact .inl (by rw [applyAction_hold_head action scope, holdAction_of_not_inStep (rest.heads h)])
    | none =>
      have heads : ∀ h, ((beginHold s).seq h).state.inStep = false := fun h => by
        rw [State.seq_of_seqs (beginHold_seqs s), rest.heads]
      rw [applyAction_hold_station action scope, holdBoth_of_atRest heads]
      cases hold : s.arb.hold with
      | true => exact .inl (beginHold_of_held rest hold)
      | false => exact .inr ⟨rfl, beginHold_of_atRest rest hold⟩

/-! What the items after the reset leave. -/

/-- What the items may change of the state that the blocks' reset left. -/
def ResetFrame (b u : State) : Prop :=
  ∃ (hold padWorn diskWorn : Bool) (c : ConditionUnit) (events : List EventRecord) (dropped : Bool) (n : Nat),
    u = { b with
      arb := { b.arb with hold := hold }
      cdr := { b.cdr with padWorn := padWorn, diskWorn := diskWorn }
      cu := c
      mgmt := { b.mgmt with events := events, dropped := dropped }
      choice := n }

/-- A station at rest with no program running: what the blocks' reset leaves (R180). -/
structure Reset (b : State) : Prop extends AtRest b where
  stopped : b.cdr.run = none

namespace ResetFrame

variable {b u : State}

theorem atRest (reset : Reset b) (frame : ResetFrame b u) : AtRest u := by
  obtain ⟨hold, padWorn, diskWorn, c, events, dropped, n, rfl⟩ := frame
  exact ⟨reset.transparent, reset.heads, reset.free⟩

theorem stopped (reset : Reset b) (frame : ResetFrame b u) : u.cdr.run = none := by
  obtain ⟨hold, padWorn, diskWorn, c, events, dropped, n, rfl⟩ := frame
  exact reset.stopped

theorem setCu (frame : ResetFrame b u) (c : ConditionUnit) : ResetFrame b { u with cu := c } := by
  obtain ⟨hold, padWorn, diskWorn, c', events, dropped, n, rfl⟩ := frame
  exact ⟨hold, padWorn, diskWorn, c, events, dropped, n, rfl⟩

theorem setHold (frame : ResetFrame b u) (x : Bool) : ResetFrame b { u with arb := { u.arb with hold := x } } := by
  obtain ⟨hold, padWorn, diskWorn, c, events, dropped, n, rfl⟩ := frame
  exact ⟨x, padWorn, diskWorn, c, events, dropped, n, rfl⟩

theorem setWorn (frame : ResetFrame b u) (x y : Bool) :
    ResetFrame b { u with cdr := { u.cdr with padWorn := x, diskWorn := y } } := by
  obtain ⟨hold, padWorn, diskWorn, c, events, dropped, n, rfl⟩ := frame
  exact ⟨hold, x, y, c, events, dropped, n, rfl⟩

theorem queueEvent (frame : ResetFrame b u) (kind : EventKind) (head : Option Head) (data : List (BitVec 32)) :
    ResetFrame b (Machine.queueEvent kind head data u) := by
  obtain ⟨hold, padWorn, diskWorn, c, events, dropped, n, rfl⟩ := frame
  unfold Machine.queueEvent
  split
  · exact ⟨hold, padWorn, diskWorn, c, _, _, n, rfl⟩
  · exact ⟨hold, padWorn, diskWorn, c, _, _, n, rfl⟩

/-- What the items do not move. -/
theorem field {α : Type} (frame : ResetFrame b u) (f : State → α)
    (unread : ∀ (hold padWorn diskWorn : Bool) (c : ConditionUnit) (events : List EventRecord) (dropped : Bool) (n : Nat),
      f { b with
        arb := { b.arb with hold := hold }, cdr := { b.cdr with padWorn := padWorn, diskWorn := diskWorn }, cu := c
        mgmt := { b.mgmt with events := events, dropped := dropped }, choice := n } = f b := by intros; rfl) :
    f u = f b := by
  obtain ⟨hold, padWorn, diskWorn, c, events, dropped, n, rfl⟩ := frame
  exact unread hold padWorn diskWorn c events dropped n

end ResetFrame

/-- A station on its way through the items after a reset: at most `most` events, those that the pending sources may still
bring counted in; the settings stand, and the events `es` are queued. -/
structure ResetTail (b : State) (most : Nat) (es : List EventRecord) (u : State) : Prop where
  frame    : ResetFrame b u
  settings : ∀ k, (u.source k).enabled = (b.source k).enabled ∧ (u.source k).severity = (b.source k).severity ∧
    (u.source k).action = (b.source k).action ∧ (u.source k).sim = false
  dropped  : u.mgmt.dropped = false
  room     : ∃ l : List SourceId, (∀ j, (u.source j).state = .pending → j ∈ l) ∧
    u.mgmt.events.length + 2 * l.length ≤ most
  queued   : ∀ e ∈ es, e ∈ u.mgmt.events

/-- With room, an event is appended (R177). -/
theorem queueEvent_of_room {kind : EventKind} {head : Option Head} {data : List (BitVec 32)} {s : State}
    (room : s.mgmt.events.length < 32) :
    queueEvent kind head data s = { s with mgmt := { s.mgmt with
      events := s.mgmt.events ++ [{ kind, head, time := s.base.time, data, droppedBefore := s.mgmt.dropped }]
      dropped := false } } := if_pos room

namespace ResetTail

variable {b u : State} {most : Nat} {es : List EventRecord}

theorem mono {n : Nat} (tail : ResetTail b most es u) (le : most ≤ n) : ResetTail b n es u := by
  obtain ⟨l, pending, room⟩ := tail.room
  exact { tail with room := ⟨l, pending, room.trans le⟩ }

theorem events_le (tail : ResetTail b most es u) : u.mgmt.events.length ≤ most := by
  obtain ⟨l, _, room⟩ := tail.room
  omega

theorem setWorn (tail : ResetTail b most es u) (x y : Bool) :
    ResetTail b most es { u with cdr := { u.cdr with padWorn := x, diskWorn := y } } :=
  ⟨tail.frame.setWorn x y, tail.settings, tail.dropped, tail.room, tail.queued⟩

theorem queueEvent (tail : ResetTail b most es u) (few : most < 32) (kind : EventKind) (head : Option Head)
    (data : List (BitVec 32)) :
    ResetTail b (most + 1) ({ kind, head, time := u.base.time, data, droppedBefore := u.mgmt.dropped } :: es)
      (Machine.queueEvent kind head data u) := by
  obtain ⟨l, pending, room⟩ := tail.room
  have appended := queueEvent_of_room (kind := kind) (head := head) (data := data) (s := u) (by omega)
  refine ⟨tail.frame.queueEvent kind head data, ?_, ?_, ⟨l, ?_, ?_⟩, fun e mem => ?_⟩
  · rw [appended]
    exact tail.settings
  · rw [appended]
  · rw [appended]
    exact pending
  · rw [appended, List.length_append, List.length_singleton]
    omega
  · rw [appended]
    rcases List.mem_cons.mp mem with rfl | mem
    · exact List.mem_append_right _ List.mem_cons_self
    · exact List.mem_append_left _ (tail.queued e mem)

/-- A source write that keeps the settings; a source that becomes pending may bring two events. -/
theorem setSource (tail : ResetTail b most es u) {k : SourceId} {x : Source} (enabled : x.enabled = (u.source k).enabled)
    (severity : x.severity = (u.source k).severity) (action : x.action = (u.source k).action) (sim : x.sim = false) :
    ResetTail b (most + 2) es (u.setSource k x) ∧ (x.state = .idle → ResetTail b most es (u.setSource k x)) := by
  obtain ⟨l, pending, room⟩ := tail.room
  have settings : ∀ j, ((u.setSource k x).source j).enabled = (b.source j).enabled ∧
      ((u.setSource k x).source j).severity = (b.source j).severity ∧
      ((u.setSource k x).source j).action = (b.source j).action ∧ ((u.setSource k x).source j).sim = false := by
    intro j
    by_cases same : j = k
    · subst same
      obtain ⟨enabled', severity', action', -⟩ := tail.settings j
      rw [State.source_setSource_same]
      exact ⟨enabled.trans enabled', severity.trans severity', action.trans action', sim⟩
    · rw [State.source_setSource_of_ne _ _ same]
      exact tail.settings j
  have frame : ResetFrame b (u.setSource k x) := tail.frame.setCu _
  refine ⟨⟨frame, settings, tail.dropped, ⟨k :: l, fun j waits => ?_, ?_⟩, tail.queued⟩,
    fun idle => ⟨frame, settings, tail.dropped, ⟨l, fun j waits => ?_, room⟩, tail.queued⟩⟩
  · by_cases same : j = k
    · exact same ▸ List.mem_cons_self
    · rw [State.source_setSource_of_ne _ _ same] at waits
      exact List.mem_cons_of_mem _ (pending j waits)
  · show u.mgmt.events.length + _ ≤ _
    rw [List.length_cons]
    omega
  · by_cases same : j = k
    · subst same
      rw [State.source_setSource_same, idle] at waits
      cases waits
    · rw [State.source_setSource_of_ne _ _ same] at waits
      exact pending j waits

theorem setHold (tail : ResetTail b most es u) (x : Bool) :
    ResetTail b most es { u with arb := { u.arb with hold := x } } :=
  ⟨tail.frame.setHold x, tail.settings, tail.dropped, tail.room, tail.queued⟩

/-- A taking uses up a pending source and one event of its two (R143). -/
theorem takeSource (reset : Reset b) (tail : ResetTail b most es u) (few : most < 32) {k : SourceId}
    (next : nextTaken u = some k) : 2 ≤ most ∧ ResetTail b (most - 1) es (Machine.takeSource k u) := by
  obtain ⟨l, pending, room⟩ := tail.room
  have mem := pending k (takeable_iff.mp (takeable_of_nextTaken next)).2.1
  have length := List.length_erase_of_mem mem
  have positive := List.length_pos_of_mem mem
  have still : resetsStation u (u.source k) = false := by
    rw [resetsStation, (tail.frame.atRest reset).transparent, Bool.and_false]
  have taken : Machine.takeSource k u = Machine.queueEvent .conditionTaken (scopeHead k (u.source k).data)
      (takenData k (u.source k) u.cu.level) (raiseLevel k u) := by
    simp only [Machine.takeSource, still, Bool.false_eq_true, if_false]
  have appended := queueEvent_of_room (kind := .conditionTaken) (head := scopeHead k (u.source k).data)
    (data := takenData k (u.source k) u.cu.level) (s := raiseLevel k u) (show u.mgmt.events.length < 32 by omega)
  refine ⟨by omega, ?_, fun j => ?_, ?_, ⟨l.erase k, takeSource_pending pending, ?_⟩, fun e mem => ?_⟩
  · rw [taken]
    exact (tail.frame.setCu _).queueEvent _ _ _
  · rw [takeSource_source]
    by_cases same : j = k
    · subst same
      rw [raiseLevel_source_same]
      exact tail.settings j
    · rw [raiseLevel_source_of_ne u same]
      exact tail.settings j
  · rw [taken, appended]
  · rw [taken, appended]
    show (u.mgmt.events ++ [_]).length + _ ≤ _
    rw [List.length_append, List.length_singleton]
    omega
  · rw [taken, appended]
    exact List.mem_append_left _ (tail.queued e mem)

theorem applyAction (reset : Reset b) (tail : ResetTail b most es u) (few : most < 32) (k : SourceId) :
    ResetTail b (most + 1) es (Machine.applyAction k u) := by
  rcases applyAction_of_atRest (tail.frame.atRest reset) k with same | ⟨-, begins⟩
  · rw [same]
    exact tail.mono (Nat.le_succ most)
  · have stopped : { u.cdr with run := none } = u.cdr := by rw [← tail.frame.stopped reset]
    rw [begins, stopped]
    have queued := (tail.setHold true).queueEvent few .stationHold none []
    exact { queued with queued := fun e mem => queued.queued e (List.mem_cons_of_mem _ mem) }

theorem takingRunTransparent (reset : Reset b) (tail : ResetTail b most es u) (few : most < 32) :
    ResetTail b most es (Machine.takingRunTransparent u) := by
  unfold Machine.takingRunTransparent
  generalize takingFuel = fuel
  induction fuel generalizing u with
  | zero => exact tail
  | succ fuel ih =>
    unfold takingRunWith
    split
    · exact tail
    · rename_i k next
      obtain ⟨enough, taken⟩ := tail.takeSource reset few next
      have still : resetsStation u (u.source k) = false := by
        rw [resetsStation, (tail.frame.atRest reset).transparent, Bool.and_false]
      rw [if_neg (by rw [still]; decide)]
      have acted := taken.applyAction reset (by omega) k
      rw [Nat.sub_add_cancel (by omega)] at acted
      exact ih acted

theorem beginPresenceWith (reset : Reset b) (tail : ResetTail b most es u) (few : most + 2 < 32) (k : SourceId)
    (d : Option SourceData) :
    ResetTail b (most + 2) es (Machine.beginPresenceWith Machine.takingRunTransparent k d u) := by
  have sim := (tail.settings k).2.2.2
  cases real : (u.source k).real with
  | true =>
    rw [beginPresenceWith_of_real real]
    exact tail.mono (Nat.le_add_right _ _)
  | false =>
    rw [beginPresenceWith_of_absent real sim]
    have written := (tail.setSource (k := k)
      (x := { u.source k with real := true, state := .pending, data := d }) rfl rfl rfl sim).1
    exact written.takingRunTransparent reset few

theorem losePresence (tail : ResetTail b most es u) (k : SourceId) :
    ResetTail b (most + 2) es (Machine.losePresence k u) := by
  have sim := (tail.settings k).2.2.2
  rw [losePresence_eq]
  refine (tail.setSource ?_ ?_ ?_ ?_).1 <;> unfold withoutPresence <;> split
  all_goals simp only [sim, Bool.false_eq_true, if_false]

/-- One item (R180): it brings at most two events, and the record is queued when it is the item. -/
theorem resetItem (reset : Reset b) (tail : ResetTail b most es u) (few : most + 2 < 32) (cause : List (BitVec 32))
    (item : ResetItem) :
    ResetTail b (most + 2) es (Machine.resetItem cause u item) ∧
    (item = .record → ResetTail b (most + 2)
      ({ kind := .stationReset, head := none, time := b.base.time, data := cause, droppedBefore := false } :: es)
      (Machine.resetItem cause u item)) := by
  cases item with
  | record =>
    have base : u.base = b.base := by
      obtain ⟨hold, padWorn, diskWorn, c, events, dropped, n, rfl⟩ := tail.frame
      rfl
    have queued := (tail.queueEvent (by omega) .stationReset none cause).mono (Nat.le_succ _)
    rw [tail.dropped, base] at queued
    exact ⟨{ queued with queued := fun e mem => queued.queued e (List.mem_cons_of_mem _ mem) }, fun _ => queued⟩
  | portLoss => exact ⟨tail.beginPresenceWith reset few _ _, fun e => nomatch e⟩
  | padWear =>
    refine ⟨?_, fun e => nomatch e⟩
    have told := tail.setWorn (padIsWorn u) u.cdr.diskWorn
    simp only [Machine.resetItem, evaluatePadWith]
    split
    · exact told.beginPresenceWith reset few _ _
    · split
      · exact told.losePresence _
      · exact tail.mono (Nat.le_add_right _ _)
  | diskWear =>
    refine ⟨?_, fun e => nomatch e⟩
    have told := tail.setWorn u.cdr.padWorn (diskIsWorn u)
    simp only [Machine.resetItem, evaluateDiskWith]
    split
    · exact told.beginPresenceWith reset few _ _
    · split
      · exact told.losePresence _
      · exact tail.mono (Nat.le_add_right _ _)

theorem foldl_resetItem (reset : Reset b) {cause : List (BitVec 32)} {items : List ResetItem}
    (tail : ResetTail b most es u) (few : most + 2 * items.length < 32) :
    ∃ es', ResetTail b (most + 2 * items.length) es' (items.foldl (Machine.resetItem cause) u) ∧ (∀ e ∈ es, e ∈ es') ∧
      (.record ∈ items → { kind := .stationReset, head := none, time := b.base.time, data := cause
                           droppedBefore := false } ∈ es') := by
  induction items generalizing u most es with
  | nil => exact ⟨es, tail, fun _ mem => mem, fun mem => nomatch mem⟩
  | cons item items ih =>
    rw [List.length_cons] at few ⊢
    have sum : most + 2 * (items.length + 1) = most + 2 + 2 * items.length := by omega
    obtain ⟨other, record⟩ := tail.resetItem reset (by omega) cause item
    rw [List.foldl_cons, sum]
    by_cases isRecord : item = .record
    · obtain ⟨es', done, among, -⟩ := ih (record isRecord) (by omega)
      exact ⟨es', done, fun e mem => among e (List.mem_cons_of_mem _ mem), fun _ => among _ List.mem_cons_self⟩
    · obtain ⟨es', done, among, later⟩ := ih other (by omega)
      refine ⟨es', done, among, fun mem => later ?_⟩
      rcases List.mem_cons.mp mem with first | later
      · exact absurd first.symm isRecord
      · exact later

end ResetTail

/-! The reset as a whole (R180). -/

theorem stationResetSequencer_inStep (q : Sequencer) : (stationResetSequencer q).state.inStep = false := by
  unfold stationResetSequencer
  dsimp only
  split <;> rfl

theorem stationResetBlocks_reset (s : State) : Reset (stationResetBlocks s) where
  transparent := rfl
  heads h := by
    cases h with
    | a => exact stationResetSequencer_inStep _
    | b => exact stationResetSequencer_inStep _
  free := rfl
  stopped := rfl

theorem stationResetBlocks_tail (s : State) (n : Nat) :
    ResetTail (stationResetBlocks s) 0 [] ((stationResetBlocks s).choicesTaken n) where
  frame := ⟨false, false, false, _, _, _, _, rfl⟩
  settings k := by
    have source : ((stationResetBlocks s).choicesTaken n).source k = stationResetSource (s.source k) :=
      stationResetBlocks_source s k
    rw [source, stationResetBlocks_source]
    exact ⟨rfl, rfl, rfl, rfl⟩
  dropped := rfl
  room := by
    refine ⟨[], fun j waits => ?_, Nat.le_refl 0⟩
    have source : ((stationResetBlocks s).choicesTaken n).source j = stationResetSource (s.source j) :=
      stationResetBlocks_source s j
    rw [source] at waits
    cases waits
  queued _ mem := nomatch mem

theorem resetItems_length (s : State) : (resetItems s).length ≤ 4 := by
  unfold resetItems
  split <;> split <;> split <;> decide

/-- What a station reset leaves (R180). -/
theorem stationReset_tail (cause : List (BitVec 32)) (s : State) :
    ResetTail (stationResetBlocks s) 8
      [{ kind := .stationReset, head := none, time := s.base.time, data := cause, droppedBefore := false }]
      (stationReset cause s) := by
  have perm := freeOrder_perm (stationResetBlocks s) (resetItems (stationResetBlocks s))
  have few : (freeOrder (stationResetBlocks s) (resetItems (stationResetBlocks s))).length ≤ 4 :=
    perm.length_eq ▸ resetItems_length _
  obtain ⟨es, tail, -, record⟩ := (stationResetBlocks_tail s (resetItems (stationResetBlocks s)).length).foldl_resetItem
    (stationResetBlocks_reset s) (cause := cause)
    (items := freeOrder (stationResetBlocks s) (resetItems (stationResetBlocks s))) (by omega)
  have first : ResetItem.record ∈ freeOrder (stationResetBlocks s) (resetItems (stationResetBlocks s)) :=
    perm.mem_iff.mpr (by simp [resetItems])
  have done := tail.mono (n := 8) (by omega)
  exact { done with queued := fun e mem => done.queued e (List.mem_singleton.mp mem ▸ record first) }

/-- A reset of a station with Port D ONLINE and nothing worn: the record is the one item. -/
theorem stationReset_of_quiet {cause : List (BitVec 32)} {s : State} (online : s.portD.link = .online)
    (pad : padIsWorn s = false) (disk : diskIsWorn s = false) :
    stationReset cause s = queueEvent .stationReset none cause ((stationResetBlocks s).choicesTaken 1) := by
  have link : (stationResetBlocks s).portD.link = .online := online
  have items : resetItems (stationResetBlocks s) = [.record] := by
    have pad : padIsWorn (stationResetBlocks s) = false := pad
    have disk : diskIsWorn (stationResetBlocks s) = false := disk
    simp [resetItems, link, pad, disk]
  have order : freeOrder (stationResetBlocks s) [ResetItem.record] = [.record] :=
    List.perm_singleton.mp (freeOrder_perm _ _)
  unfold stationReset
  dsimp only
  rw [items, order]
  rfl

/-- A response to a request that performed a station reset is held back (R179). -/
theorem respond_of_reset {dest : Nat} {tag : Byte} {a : Answer} {s : State} (taken : s.mgmt.resetTaken = true) :
    respond dest tag a s = { s with mgmt := { s.mgmt with
      heldBack := some { dest, tag, outcome := a.outcome, results := a.results }, resetTaken := false } } := if_pos taken

theorem ownStationReset_of_allowed {r : Request} {s : State} (allowed : r.origin = 62 ∨ s.cu.level ≤ 10) :
    ownStationReset r () s = (stationReset (requestCause r.origin) s, doneAnswer) := by
  refine if_neg fun refused => ?_
  rw [Bool.and_eq_true, decide_eq_true_eq] at refused
  obtain ⟨tool, high⟩ := refused
  have tool : r.origin = 0 := of_decide_eq_true tool
  have high : 10 < s.cu.level := high
  omega

section

variable (s : State) (h : Head)

theorem stationResetBlocks_seq : (stationResetBlocks s).seq h =
    { state := if (s.seq h).program.isSome then .ready else .empty, program := (s.seq h).program, position := none
      timer := .stopped, gap := none, confirm := PerZone.fill 0, cleared := PerZone.fill false
      commanded := PerArea.fill none, results := [], current := none } := by cases h <;> rfl

theorem stationResetBlocks_sampler : (stationResetBlocks s).sampler h =
    { zoneMap := (s.sampler h).zoneMap, openSweep := none, counter := 0, history := [] } := by cases h <;> rfl

theorem stationResetBlocks_comp : (stationResetBlocks s).comp h = none := by cases h <;> rfl

theorem stationResetBlocks_fn (f : Fn) :
    (stationResetBlocks s).fn f = { s.fn f with echo := 0, dev := .inBand, clamped := false } := PerFn.get_tabulate _ f

theorem stationResetBlocks_slots (f : Fn) : (stationResetBlocks s).slots.get f = none := PerFn.get_fill _ f

theorem stationReset_settings (cause : List (BitVec 32)) (k : SourceId) :
    ((stationReset cause s).source k).enabled = (s.source k).enabled ∧
    ((stationReset cause s).source k).severity = (s.source k).severity ∧
    ((stationReset cause s).source k).action = (s.source k).action ∧ ((stationReset cause s).source k).sim = false := by
  have settings := (stationReset_tail cause s).settings k
  rw [stationResetBlocks_source] at settings
  exact settings

end

/-- Settles O53: the blocks take the reset, and the items after it move flags, sources and events alone. -/
theorem stationResetClearsTheStation : Obligations.StationResetClearsTheStation := by
  intro r s adm args
  have walk : wholeWalk noArgs r.args = some () := by rw [args, wholeWalk_noArgs]
  refine ⟨fun tool high => ?_, fun allowed => ?_⟩
  · refine request_refused 34 adm walk (if_pos ?_)
    rw [fromTool_of_tool tool, served_level, Bool.true_and]
    exact decide_eq_true high
  · have own := ownStationReset_of_allowed (r := r) (s := served r s) (by rwa [served_level])
    obtain ⟨padTold, diskTold, limits, live⟩ := stationReset_tells (requestCause r.origin) (served r s)
    have marked := (stationReset_emptied (requestCause r.origin) (served r s)).1
    have tail := stationReset_tail (requestCause r.origin) (served r s)
    have frame := tail.frame
    have quiet := stationReset_of_quiet (cause := requestCause r.origin) (s := served r s)
    have settings := stationReset_settings (served r s) (requestCause r.origin)
    have pad : (stationReset (requestCause r.origin) (served r s)).cdr.padWorn = padIsWorn s :=
      padTold.trans ((padIsWorn_congr limits live).trans (padIsWorn_congr (served_limits r s) (by rw [served_store])))
    have disk : (stationReset (requestCause r.origin) (served r s)).cdr.diskWorn = diskIsWorn s :=
      diskTold.trans ((diskIsWorn_congr limits live).trans (diskIsWorn_congr (served_limits r s) (by rw [served_store])))
    refine ⟨_, request_effect 34 adm walk own, ?_⟩
    rw [respond_of_reset marked]
    generalize stationReset (requestCause r.origin) (served r s) = u at *
    refine ⟨fun h => ?_, fun h => ?_, fun h => ?_, ?_, ?_, ?_, ?_, ?_, ?_, ?_, ?_, ?_, pad, disk, fun f => ?_, ?_,
      fun f => ?_, ?_, ?_, ?_, ?_, ?_, ?_, ?_, ?_, ?_, ?_, ?_, ?_, tail.dropped, rfl, ?_, fun k => ?_,
      fun online sound sound' => ?_⟩
    · exact (frame.field (fun t => t.seq h)).trans ((stationResetBlocks_seq _ h).trans (by rw [served_seq]))
    · exact (frame.field (fun t => t.sampler h)).trans ((stationResetBlocks_sampler _ h).trans (by rw [served_sampler]))
    · exact (frame.field (fun t => t.comp h)).trans (stationResetBlocks_comp _ h)
    · exact (frame.field State.steps).trans (served_steps r s)
    · exact (frame.field (fun t => t.arb.table)).trans (served_field (fun t => t.arb.table) (fun _ _ _ => rfl) r s)
    · exact frame.field (fun t => t.arb.service)
    · exact frame.field (fun t => t.arb.waiting)
    · exact (frame.field State.dose).trans 
        (served_field (fun t => { t.dose with current := none }) (fun _ _ _ => rfl) r s)
    · exact (frame.field (fun t => t.cdr.programs)).trans (served_field (fun t => t.cdr.programs) (fun _ _ _ => rfl) r s)
    · exact frame.field (fun t => t.cdr.run)
    · exact (frame.field (fun t => t.cdr.padRem)).trans (served_field (fun t => t.cdr.padRem) (fun _ _ _ => rfl) r s)
    · exact (frame.field (fun t => t.cdr.diskRem)).trans (served_field (fun t => t.cdr.diskRem) (fun _ _ _ => rfl) r s)
    · exact (frame.field (fun t => t.fn f)).trans ((stationResetBlocks_fn _ f).trans (by rw [served_fn]))
    · exact (frame.field (fun t => t.fmap.sensor)).trans (served_field (fun t => t.fmap.sensor) (fun _ _ _ => rfl) r s)
    · exact (frame.field (fun t => t.slots.get f)).trans (stationResetBlocks_slots _ f)
    · exact frame.field State.fwd
    · exact (frame.field State.portU).trans 
        (served_field (fun t => { t.portU with tx := .free }) (fun _ _ _ => rfl) r s)
    · exact (frame.field State.portD).trans 
        (served_field (fun t => { t.portD with tx := .free }) (fun _ _ _ => rfl) r s)
    · exact (frame.field State.store).trans (served_store r s)
    · exact (frame.field State.base).trans (served_base r s)
    · exact (frame.field State.pending).trans (served_pending r s)
    · exact frame.field (fun t => t.mgmt.mode)
    · exact frame.field (fun t => t.mgmt.requests)
    · exact frame.field (fun t => t.mgmt.responses)
    · exact frame.field (fun t => t.mgmt.supTimer)
    · exact frame.field (fun t => t.mgmt.supLoss)
    · exact (frame.field (fun t => t.mgmt.limits)).trans (served_limits r s)
    · have queued := tail.queued _ (List.mem_singleton.mpr rfl)
      rw [served_base] at queued
      exact queued
    · obtain ⟨enabled, severity, action, sim⟩ := settings k
      obtain ⟨enabled', severity', action', -⟩ := superviseRequest_settings r.origin (beginRequest s) k
      exact ⟨enabled.trans enabled', severity.trans severity', action.trans action', sim⟩
    · rw [served_portD, padIsWorn_congr (served_limits r s) (congrArg ParameterStore.live (served_store r s)),
        diskIsWorn_congr (served_limits r s) (congrArg ParameterStore.live (served_store r s))] at quiet
      have is := quiet online sound sound'
      have empty : ((stationResetBlocks (served r s)).choicesTaken 1).mgmt.events.length < 32 := Nat.zero_lt_succ 31
      rw [queueEvent_of_room empty] at is
      subst is
      refine ⟨?_, rfl, rfl, rfl, fun k => ?_⟩
      · show [_] = [_]
        rw [State.choicesTaken]
        show [({ kind := .stationReset, head := none, time := (served r s).base.time, data := _, droppedBefore := false } :
          EventRecord)] = _
        rw [served_base]
        rfl
      · have source : ((stationResetBlocks (served r s)).source k) = stationResetSource ((served r s).source k) :=
          stationResetBlocks_source _ k
        exact ⟨congrArg Source.state source, congrArg Source.data source, congrArg Source.real source⟩

end Sys2Proof.Machine


/-! ## From hardware reset to a running part (R135, R136, R182, R185, R192) -/

namespace Sys2Proof.Machine

/-! A taking run with one source to take (R143). -/

/-- Of one takeable source among none that is pending besides, the run takes that and ends. -/
theorem takingRun_of_single {k : SourceId} {s : State} (transparent : s.active = false) (may : takeable s k = true)
    (alone : ∀ j, j ≠ k → (s.source j).state ≠ .pending) : takingRun s = applyAction k (takeSource k s) := by
  have next : nextTaken s = some k := by
    cases next : nextTaken s with
    | none => exact absurd (nextTaken_eq_none.mp next k) (by rw [may]; decide)
    | some j =>
      by_cases same : j = k
      · rw [same]
      · exact absurd (takeable_iff.mp (takeable_of_nextTaken next)).2.1 (alone j same)
  have done : nextTaken (applyAction k (takeSource k s)) = none := by
    rw [nextTaken_congr (applyAction_moves k _).cu, nextTaken_eq_none]
    intro j
    by_contra may'
    have pending := (takeable_iff.mp (by simpa using may')).2.1
    rw [takeSource_source] at pending
    by_cases same : j = k
    · subst same
      rw [raiseLevel_source_same] at pending
      cases pending
    · rw [raiseLevel_source_of_ne s same] at pending
      exact alone j same pending
  have still : resetsStation s (s.source k) = false := by rw [resetsStation, transparent, Bool.and_false]
  have first : takingRun s = takingRunWith applyAction resetAction 15 (applyAction k (takeSource k s)) := by
    unfold takingRun takingFuel
    simp only [takingRunWith, next, still, Bool.false_eq_true, if_false]
  rw [first]
  simp only [takingRunWith, done]

theorem takeSource_of_transparent {k : SourceId} {s : State} (transparent : s.active = false)
    (room : s.mgmt.events.length < 32) : ∃ e, takeSource k s = { s with
      cu := (raiseLevel k s).cu, mgmt := { s.mgmt with events := s.mgmt.events ++ [e], dropped := false } } := by
  have still : resetsStation s (s.source k) = false := by rw [resetsStation, transparent, Bool.and_false]
  have appended := queueEvent_of_room (kind := .conditionTaken) (head := scopeHead k (s.source k).data)
    (data := takenData k (s.source k) s.cu.level) (s := raiseLevel k s) room
  simp only [takeSource, still, Bool.false_eq_true, if_false, appended]
  exact ⟨_, rfl⟩

/-- A HOLD action of station scope begins station hold in a station at rest (R78, R147). -/
theorem applyAction_hold_of_atRest {k : SourceId} {s : State} (rest : AtRest s) (action : (s.source k).action = .hold)
    (scope : scopeHead k (s.source k).data = none) (off : s.arb.hold = false) :
    applyAction k s = queueEvent .stationHold none [] { s with
      arb := { s.arb with hold := true }, cdr := { s.cdr with run := none } } := by
  have heads : ∀ h, ((beginHold s).seq h).state.inStep = false := fun h => by
    rw [State.seq_of_seqs (beginHold_seqs s), rest.heads]
  rw [applyAction_hold_station action scope, holdBoth_of_atRest heads, beginHold_of_atRest rest off]

/-! The records are read (R185). -/

/-- The first record that is not VALID. -/
def faultyRecord {α : Type} (x : Stored α) (r : RecordName) : Option RecordName :=
  if (validContents x).isNone then some r else none

/-- Level, stack and STORE_FAULT when it was taken for a record, or for none (R185). -/
def FaultTold (u v : State) : Option RecordName → Prop
  | none => v.cu.level = 0 ∧ v.cu.stack = [] ∧ v.source .storeFault = u.source .storeFault
  | some x => v.cu.level = 4 ∧ v.cu.stack = [0] ∧
      v.source .storeFault = { u.source .storeFault with state := .served, data := some (.record x) }

/-- The store's load so far: STORE_FAULT was taken for a record, or for none. -/
structure Faulted (u : State) (o : Option RecordName) (v : State) : Prop where
  only   : { v with cu := u.cu, mgmt := u.mgmt } = u
  mgmt   : { v.mgmt with events := u.mgmt.events } = u.mgmt
  few    : v.mgmt.events.length ≤ o.toList.length
  others : ∀ k, k ≠ .storeFault → v.source k = u.source k
  fault  : FaultTold u v o

/-- A part whose store load has come: the blocks are as hardware reset left them (R136). -/
structure LoadDue (u : State) : Prop where
  mgmt : u.mgmt = resetManagement
  cu   : u.cu = resetConditions
  arb  : u.arb = resetArbiter
  seqs : u.seqs = ⟨resetSequencer, resetSequencer⟩

namespace LoadDue

variable {u : State} (due : LoadDue u)
include due

theorem source (k : SourceId) : u.source k = resetSource k := by
  rw [State.source, due.cu]
  exact PerSource.get_tabulate _ k

theorem transparent : u.active = false := by
  rw [State.active, due.mgmt]
  rfl

theorem heads (h : Head) : (u.seq h).state.inStep = false := by
  rw [State.seq, due.seqs]
  cases h <;> rfl

theorem faulted : Faulted u none u where
  only := rfl
  mgmt := rfl
  few := by
    rw [due.mgmt]
    exact Nat.le_refl 0
  others _ _ := rfl
  fault := ⟨by rw [due.cu]; rfl, by rw [due.cu]; rfl, rfl⟩

end LoadDue

/-- STORE_FAULT is taken: its default action moves nothing (R138, R143). -/
theorem occurrence_faulted {u v : State} (due : LoadDue u) (before : Faulted u none v) (x : RecordName) :
    Faulted u (some x) (occurrence .storeFault (.record x) v) := by
  obtain ⟨only, mgmt, few, others, level, stack, fault⟩ := before
  have active : v.active = false := by
    have mode := congrArg Management.mode mgmt
    exact (State.active_of_mode mode).trans due.transparent
  have source : v.source .storeFault = resetSource .storeFault := fault.trans (due.source _)
  have idle : (v.source .storeFault).state = .idle := by rw [source]; rfl
  generalize is : v.setSource .storeFault { v.source .storeFault with state := .pending, data := some (.record x) } = w
  have own : w.source .storeFault = { resetSource .storeFault with state := .pending, data := some (.record x) } := by
    rw [← is, State.source_setSource_same, source]
  have kept : ∀ k, k ≠ .storeFault → w.source k = resetSource k := fun k other => by
    rw [← is, State.source_setSource_of_ne _ _ other, others k other, due.source]
  have low : w.cu.level = 0 := by rw [← is]; exact level
  have may : takeable w .storeFault = true := by
    rw [takeable_iff, own, low]
    exact ⟨rfl, rfl, show (0 : Nat) < 4 by decide⟩
  have alone : ∀ j, j ≠ .storeFault → (w.source j).state ≠ .pending := fun j other => by
    rw [kept j other]
    exact fun pending => nomatch pending
  obtain ⟨e, taken⟩ := takeSource_of_transparent (k := .storeFault) (s := w) (by rw [← is]; exact active)
    (by rw [← is]; exact Nat.lt_of_le_of_lt few (by decide))
  have action : ((takeSource .storeFault w).source .storeFault).action = .note := by
    rw [takeSource_source, raiseLevel_source_same, own]
    rfl
  have result : occurrence .storeFault (.record x) v = takeSource .storeFault w := by
    rw [occurrence, occurrenceWith_of_idle _ idle, is, takingRun_of_single (by rw [← is]; exact active) may alone,
      applyAction_still (.inl action)]
  rw [result]
  refine ⟨?_, ?_, ?_, fun k other => ?_, ?_, ?_, ?_⟩
  · rw [taken, ← is]
    exact only
  · rw [taken, ← is]
    have undropped : u.mgmt.dropped = false := by rw [due.mgmt]; rfl
    have kept := congrArg (fun m : Management => { m with dropped := false }) mgmt
    exact kept.trans (by rw [← undropped])
  · rw [taken, ← is]
    show (v.mgmt.events ++ [e]).length ≤ 1
    rw [List.length_append, List.length_singleton]
    exact Nat.succ_le_succ few
  · rw [takeSource_source, raiseLevel_source_of_ne _ other, kept k other, due.source]
  · rw [takeSource_cu, raiseLevel_level, own]
    rfl
  · rw [takeSource_cu, raiseLevel_stack, low, ← is]
    show v.cu.stack ++ _ = _
    rw [stack]
    rfl
  · rw [takeSource_source, raiseLevel_source_same, own, due.source]

/-- A second record that is not VALID finds STORE_FAULT taken already (R140, R185). -/
theorem reportRecord_faulted {α : Type} {u v : State} {o : Option RecordName} (due : LoadDue u) (before : Faulted u o v)
    (x : Stored α) (r : RecordName) : Faulted u (o.or (faultyRecord x r)) (reportRecord x r v) := by
  have faulty (y : RecordName) : Faulted u (o.or (some y)) (occurrence .storeFault (.record y) v) := by
    cases o with
    | none => exact occurrence_faulted due before y
    | some z =>
      have served : (v.source .storeFault).state ≠ .idle := by
        have fault := before.fault.2.2
        rw [fault]
        exact fun idle => nomatch idle
      rw [occurrence, occurrenceWith_of_not_idle _ served]
      exact before
  cases x with
  | valid c =>
    have same : o.or (faultyRecord (Stored.valid c) r) = o := Option.or_none
    rw [same]
    exact before
  | blank => exact faulty r
  | invalid => exact faulty r

theorem reportRecords_faulted {u : State} (due : LoadDue u) (x : ParameterStore) :
    Faulted u (((faultyRecord x.sensorRec .sensorCal).or (faultyRecord x.channelRec .channelCal)).or
      (faultyRecord x.wearRec .wear) |>.or (faultyRecord x.protectRec .protect)) (reportRecords x u) :=
  reportRecord_faulted due (reportRecord_faulted due (reportRecord_faulted due (reportRecord_faulted due due.faulted _ _)
    _ _) _ _) _ _

/-- The first faulty record, as the order of R185 finds it. -/
theorem firstFaulty_eq (x : ParameterStore) :
    [RecordName.sensorCal, .channelCal, .wear, .protect].find? (fun r => (storedRecord x r).2.isNone) =
      (((faultyRecord x.sensorRec .sensorCal).or (faultyRecord x.channelRec .channelCal)).or
        (faultyRecord x.wearRec .wear)).or (faultyRecord x.protectRec .protect) := by
  simp only [List.find?_cons, List.find?_nil, storedRecord, Option.isNone_map, faultyRecord]
  cases (validContents x.sensorRec).isNone with
  | true => rfl
  | false =>
    cases (validContents x.channelRec).isNone with
    | true => rfl
    | false =>
      cases (validContents x.wearRec).isNone with
      | true => rfl
      | false => cases (validContents x.protectRec).isNone <;> rfl

/-! The bypass switch opens (R136, R137). -/

/-- The state in which Port D's loss is taken. -/
def lossPending (v : State) : State :=
  State.setSource { v with base := { v.base with phase := .running } } .portDLoss
    { v.source .portDLoss with real := true, state := .pending, data := none }

/-- Port D's loss is taken, and its default action begins station hold (R137, R138, R147). -/
theorem openBypass_eq {u v : State} {o : Option RecordName} (due : LoadDue u) (loaded : Faulted u o v) :
    openBypass v = queueEvent .stationHold none [] { takeSource .portDLoss (lossPending v) with
      arb := { (takeSource .portDLoss (lossPending v)).arb with hold := true }
      cdr := { (takeSource .portDLoss (lossPending v)).cdr with run := none } } := by
  have mode := congrArg Management.mode loaded.mgmt
  have active : v.active = false := (State.active_of_mode mode).trans due.transparent
  have seqs : v.seqs = u.seqs := by have kept := congrArg State.seqs loaded.only; exact kept
  have arb : v.arb = u.arb := by have kept := congrArg State.arb loaded.only; exact kept
  have source : v.source .portDLoss = resetSource .portDLoss := (loaded.others _ (by decide)).trans (due.source _)
  have own : (lossPending v).source .portDLoss =
      { resetSource .portDLoss with real := true, state := .pending, data := none } := by
    rw [lossPending, State.source_setSource_same, source]
  have level : (lossPending v).cu.level < 13 := by
    show v.cu.level < 13
    have fault := loaded.fault
    cases o with
    | none =>
      rw [fault.1]
      decide
    | some x =>
      rw [fault.1]
      decide
  have may : takeable (lossPending v) .portDLoss = true := by
    rw [takeable_iff, own]
    exact ⟨rfl, rfl, level⟩
  have alone : ∀ j, j ≠ .portDLoss → ((lossPending v).source j).state ≠ .pending := fun j other => by
    rw [lossPending, State.source_setSource_of_ne _ _ other]
    show (v.source j).state ≠ .pending
    by_cases fault : j = .storeFault
    · subst fault
      have told := loaded.fault
      cases o with
      | none =>
        rw [told.2.2, due.source]
        exact fun pending => nomatch pending
      | some x =>
        rw [told.2.2]
        exact fun pending => nomatch pending
    · rw [loaded.others j fault, due.source]
      exact fun pending => nomatch pending
  have taken : (takeSource .portDLoss (lossPending v)).source .portDLoss =
      { resetSource .portDLoss with real := true, state := .served, data := none } := by
    rw [takeSource_source, raiseLevel_source_same, own]
  have keptArb : (takeSource .portDLoss (lossPending v)).arb = resetArbiter := by
    have kept := congrArg State.arb (takeSource_only .portDLoss (lossPending v))
    exact kept.trans (arb.trans due.arb)
  have rest : AtRest (takeSource .portDLoss (lossPending v)) := by
    refine ⟨(takeSource_active _ _).trans active, fun h => ?_, by rw [keptArb]; rfl⟩
    rw [State.seq_of_seqs (takeSource_seqs .portDLoss (lossPending v)), State.seq_of_seqs (show (lossPending v).seqs = u.seqs
      from seqs)]
    exact due.heads h
  have started : openBypass v = takingRun (lossPending v) := by
    have real : (State.source { v with base := { v.base with phase := .running } } .portDLoss).real = false := by
      show (v.source .portDLoss).real = false
      rw [source]
      rfl
    have sim : (State.source { v with base := { v.base with phase := .running } } .portDLoss).sim = false := by
      show (v.source .portDLoss).sim = false
      rw [source]
      rfl
    exact beginPresenceWith_of_absent real sim
  rw [started, takingRun_of_single (s := lossPending v) active may alone, applyAction_hold_of_atRest rest (by rw [taken]; rfl) rfl
    (by rw [keptArb]; rfl)]

/-- What the opening of the bypass switch leaves. -/
theorem openBypass_leaves {u v : State} {o : Option RecordName} (due : LoadDue u) (loaded : Faulted u o v) :
    ({ openBypass v with cu := u.cu, mgmt := u.mgmt } = { u with
      base := { u.base with phase := .running }, arb := { u.arb with hold := true }, cdr := { u.cdr with run := none } }) ∧
    { (openBypass v).mgmt with events := [] } = u.mgmt ∧ (openBypass v).mgmt.events.length < 32 ∧
    (openBypass v).cu = (raiseLevel .portDLoss (lossPending v)).cu := by
  have mode := congrArg Management.mode loaded.mgmt
  have active : (lossPending v).active = false := (State.active_of_mode mode).trans due.transparent
  have few : v.mgmt.events.length ≤ 1 := loaded.few.trans Option.length_toList_le
  obtain ⟨e, taken⟩ := takeSource_of_transparent (k := .portDLoss) active
    (show v.mgmt.events.length < 32 from Nat.lt_of_le_of_lt few (by decide))
  have length : (v.mgmt.events ++ [e]).length ≤ 2 := by
    rw [List.length_append, List.length_singleton]
    exact Nat.succ_le_succ few
  rw [openBypass_eq due loaded, queueEvent_of_room ?room, taken]
  case room =>
    rw [taken]
    exact Nat.lt_of_le_of_lt length (by decide)
  refine ⟨?_, ?_, ?_, rfl⟩
  · have only := congrArg (fun t : State => { t with
      base := { t.base with phase := .running }, arb := { t.arb with hold := true }, cdr := { t.cdr with run := none } })
      loaded.only
    exact only
  · have reset : { u.mgmt with events := [], dropped := false } = u.mgmt := by rw [due.mgmt]; rfl
    have kept := congrArg (fun m : Management => { m with events := [], dropped := false }) loaded.mgmt
    exact kept.trans reset
  · show ((v.mgmt.events ++ [e]) ++ [_]).length < 32
    rw [List.length_append, List.length_singleton]
    omega

theorem hardwareResetStore_eq (x : ParameterStore) : hardwareResetStore x = { State.reset.store with
    sensorRec := if x.engine.map (fun w => w.contents.record) = some .sensorCal then .invalid else x.sensorRec
    channelRec := if x.engine.map (fun w => w.contents.record) = some .channelCal then .invalid else x.channelRec
    wearRec := if x.engine.map (fun w => w.contents.record) = some .wear then .invalid else x.wearRec
    protectRec := if x.engine.map (fun w => w.contents.record) = some .protect then .invalid else x.protectRec } := by
  unfold hardwareResetStore cutOff
  cases engine : x.engine with
  | none => rfl
  | some w =>
    obtain ⟨contents, origin⟩ := w
    cases contents <;> rfl

theorem storeLoaded_parts {s v : State} (recordsRead : reportRecords s.store (loadStore s) = v) :
    storeLoaded s = queueEvent .started none (startedData (openBypass v)) (openBypass v) := by
  rw [storeLoaded, recordsRead]

/-- Settles O54: the load reads the records, the opening takes Port D's loss, and STARTED closes it. -/
theorem hardwareResetToRunning : Obligations.HardwareResetToRunning := by
  intro s
  refine ⟨?reset, fun straps high => ⟨fun asserted => ?release, fun other => ?notAsserted⟩, fun other => ?notLoading,
    fun loading mgmt cu arb seqs => ?load⟩
  case reset => exact congrArg (fun x => Host.Outcome.next { State.reset with
      pending := s.pending, choice := s.choice, store := x }) (hardwareResetStore_eq s.store)
  case release => exact congrArg Host.Outcome.next (if_pos asserted)
  case notAsserted => exact congrArg Host.Outcome.next (if_neg other)
  case notLoading => exact congrArg Host.Outcome.next (if_neg other)
  case load =>
    have due : LoadDue (loadStore s) := ⟨mgmt, cu, arb, seqs⟩
    have loaded := reportRecords_faulted due s.store
    rw [← firstFaulty_eq] at loaded
    generalize recordsRead : reportRecords s.store (loadStore s) = v at loaded
    obtain ⟨only, kept, room, conditions⟩ := openBypass_leaves due loaded
    have parts := storeLoaded_parts recordsRead
    have opened {α : Type} (f : State → α) (unread : ∀ (t : State) (m : Management) (c : ConditionUnit),
        f { t with mgmt := m, cu := c } = f t) : f (openBypass v) = f { loadStore s with
          base := { s.base with phase := .running }, arb := { s.arb with hold := true }
          cdr := { s.cdr with run := none } } :=
      (unread (openBypass v) (loadStore s).mgmt (loadStore s).cu).symm.trans (congrArg f only)
    have field {α : Type} (f : State → α) (unread : ∀ (t : State) (m : Management) (c : ConditionUnit),
        f { t with mgmt := m, cu := c } = f t) : f (storeLoaded s) = f { loadStore s with
          base := { s.base with phase := .running }, arb := { s.arb with hold := true }
          cdr := { s.cdr with run := none } } := by
      have only := queueEvent_only .started none (startedData (openBypass v)) (openBypass v)
      rw [← parts] at only
      exact ((unread (storeLoaded s) (openBypass v).mgmt (storeLoaded s).cu).symm.trans (congrArg f only)).trans
        (opened f unread)
    have undropped : (openBypass v).mgmt.dropped = false := by
      have dropped := congrArg Management.dropped (kept.trans due.mgmt)
      exact dropped
    have portD : v.source .portDLoss = resetSource .portDLoss := (loaded.others _ (by decide)).trans (due.source _)
    have source (k : SourceId) : (storeLoaded s).source k = (raiseLevel .portDLoss (lossPending v)).source k := by
      rw [parts, queueEvent_source, State.source, conditions]
      rfl
    refine ⟨storeLoaded s, congrArg Host.Outcome.next (if_pos loading), field State.base (fun _ _ _ => rfl),
      field State.store (fun _ _ _ => rfl), fun h => ?sampler, field State.seqs (fun _ _ _ => rfl),
      field State.comps (fun _ _ _ => rfl), field State.steps (fun _ _ _ => rfl), field State.dose (fun _ _ _ => rfl),
      field State.cdr (fun _ _ _ => rfl),
      ⟨field State.portU (fun _ _ _ => rfl), field State.portD (fun _ _ _ => rfl), field State.fwd (fun _ _ _ => rfl)⟩,
      ⟨field State.fmap (fun _ _ _ => rfl), field State.slots (fun _ _ _ => rfl)⟩, field State.arb (fun _ _ _ => rfl),
      ?level, ?portD, fun k notPort notFault => ?others, ?fault, ?started, ?mgmt⟩
    case sampler =>
      rw [field (fun t => t.sampler h) (fun _ _ _ => rfl)]
      cases h <;> rfl
    case level =>
      rw [parts, queueEvent_cu, conditions, raiseLevel_level, lossPending, State.source_setSource_same, portD]
      rfl
    case portD =>
      rw [source, raiseLevel_source_same, lossPending, State.source_setSource_same, portD,
        show s.source .portDLoss = resetSource .portDLoss from due.source _]
      rfl
    case others =>
      rw [source, raiseLevel_source_of_ne _ notPort, lossPending, State.source_setSource_of_ne _ _ notPort]
      exact loaded.others k notFault
    case fault =>
      rw [source, raiseLevel_source_of_ne _ (by decide), lossPending, State.source_setSource_of_ne _ _ (by decide), parts,
        queueEvent_cu, conditions, raiseLevel_stack]
      have fault := loaded.fault
      generalize [RecordName.sensorCal, .channelCal, .wear, .protect].find?
        (fun x => (storedRecord s.store x).2.isNone) = o at fault ⊢
      cases o with
      | none =>
        obtain ⟨level, stack, source⟩ := fault
        refine ⟨?_, source⟩
        show v.cu.stack ++ [v.cu.level] = _
        rw [stack, level]
        rfl
      | some x =>
        obtain ⟨level, stack, source⟩ := fault
        refine ⟨?_, source⟩
        show v.cu.stack ++ [v.cu.level] = _
        rw [stack, level]
        rfl
    case started =>
      have base : (openBypass v).base = { s.base with phase := .running } := opened State.base (fun _ _ _ => rfl)
      have store : (openBypass v).store = (loadStore s).store := opened State.store (fun _ _ _ => rfl)
      rw [parts, queueEvent_of_room room, undropped]
      dsimp only
      rw [List.getLast?_concat, startedData, base, store]
      rfl
    case mgmt =>
      rw [parts, queueEvent_of_room room]
      have kept := congrArg (fun m : Management => { m with dropped := false }) (kept.trans due.mgmt)
      exact kept.trans mgmt.symm

end Sys2Proof.Machine


/-! ## What a node frame on Port D does: the link, the copies and the forward queue (R30 to R47, R91, R111 to R114, R122,
R123, R126) -/

namespace Sys2Proof.Machine

/-! The copies of a frame leave room in the upbound queue where there was room: nothing in a copy joins it, and a station
reset empties it (R180). -/

/-- The upbound forward queue takes one more frame. -/
def HasRoomUp (s : State) : Prop := s.fwd.up.length < Config.upCapacity

theorem HasRoomUp.of_fwd {s t : State} (same : t.fwd = s.fwd) (room : HasRoomUp s) : HasRoomUp t := by
  rw [HasRoomUp, same]; exact room

theorem HasRoomUp.of_moves {s t : State} (moved : Moves s t) (room : HasRoomUp s) : HasRoomUp t := room.of_fwd moved.fwd

theorem takeSource_hasRoomUp (k : SourceId) {s : State} (room : HasRoomUp s) : HasRoomUp (takeSource k s) := by
  have same := congrArg State.fwd (takeSource_only k s)
  exact room.of_fwd same

theorem stationReset_hasRoomUp (cause : List (BitVec 32)) (s : State) : HasRoomUp (stationReset cause s) := by
  have emptied : (stationReset cause s).fwd = { down := [], up := [] } :=
    (stationReset_tail cause s).frame.field State.fwd
  rw [HasRoomUp, emptied]
  decide

theorem takingRunWith_hasRoomUp {act : SourceId → State → State} (acts : ∀ k s, HasRoomUp s → HasRoomUp (act k s))
    {s : State} (room : HasRoomUp s) : HasRoomUp (takingRunWith act resetAction takingFuel s) :=
  takingRunWith_induction (fun k _ _ => takeSource_hasRoomUp k) acts (fun _ _ _ => stationReset_hasRoomUp ..) _ room

theorem applyAction_hasRoomUp (k : SourceId) (s : State) (room : HasRoomUp s) : HasRoomUp (applyAction k s) :=
  room.of_moves (applyAction_moves k s)

theorem takingRun_hasRoomUp {s : State} (room : HasRoomUp s) : HasRoomUp (takingRun s) :=
  takingRunWith_hasRoomUp applyAction_hasRoomUp room

theorem takingRunInClose_hasRoomUp {s : State} (room : HasRoomUp s) : HasRoomUp (takingRunInClose s) :=
  takingRunWith_hasRoomUp (fun k s room => by
    unfold deferLimitAction
    split
    · exact room
    · exact applyAction_hasRoomUp k s room) room

theorem occurrenceWith_hasRoomUp {run : State → State} (runs : ∀ s, HasRoomUp s → HasRoomUp (run s)) (k : SourceId)
    (d : SourceData) {s : State} (room : HasRoomUp s) : HasRoomUp (occurrenceWith run k d s) := by
  unfold occurrenceWith
  split
  · exact runs _ room
  · exact room
  · exact room

/-! Endpoint evaluation moves the heads, the slots and the event queue alone (R54 to R57). -/

theorem clearZone_moves (h : Head) (st : StepRecord) (z : Zone) (cleared : Option Nat) (s : State) :
    Moves s (clearZone h st z cleared s) := by
  have queued := (setSeq_moves h { s.seq h with cleared := (s.seq h).cleared.set z true } s).trans
    (queueEvent_moves .zoneCleared (some h) [dv (zoneCode z)] _)
  unfold clearZone
  dsimp only
  split
  · exact queued
  · split
    · exact queued
    · exact (queued.trans (setSeq_moves ..)).trans (writeSlot_moves ..)

theorem visitZone_moves (h : Head) (st : StepRecord) (e : EndpointSection) (r : SweepRecord) (s : State) (z : Zone) :
    Moves s (visitZone h st e r s z) := by
  unfold visitZone
  split
  · dsimp only
    split
    · exact Moves.refl s
    · split
      · split
        · exact (setSeq_moves ..).trans (clearZone_moves ..)
        · exact setSeq_moves ..
      · exact setSeq_moves ..
  · exact Moves.refl s

theorem evaluateEndpoint_moves (h : Head) (st : StepRecord) (r : SweepRecord) (s : State) :
    Moves s (evaluateEndpoint h st r s).1 := by
  unfold evaluateEndpoint
  split
  · exact Moves.refl s
  · rename_i e _
    have visited : Moves s (visitZones h st e r s) :=
      List.foldlRecOn _ _ (motive := Moves s) (Moves.refl s) fun t moved z _ => moved.trans (visitZone_moves h st e r t z)
    dsimp only
    split
    · exact visited.trans (queueEvent_moves ..)
    · exact visited

/-! The close of a sweep (R43 to R47, R51). -/

theorem correctZone_hasRoomUp (h : Head) (z : Zone) (p : Nat) (k : Correction) {s : State} (room : HasRoomUp s) :
    HasRoomUp (correctZone h z p k s) := by
  have reported : HasRoomUp
      (if k.clamped then occurrenceWith takingRunInClose .limitReached (.limit h z k.unclamped) s else s) := by
    split
    · exact occurrenceWith_hasRoomUp (fun _ => takingRunInClose_hasRoomUp) _ _ room
    · exact room
  unfold correctZone
  dsimp only
  split
  · exact reported
  · exact reported.of_moves ((setSeq_moves ..).trans (writeSlot_moves ..))

theorem runControl_hasRoomUp (h : Head) (st : StepRecord) (n : SweepRecord) {s : State} (room : HasRoomUp s) :
    HasRoomUp (runControl h st n s) := by
  unfold runControl
  split
  · unfold controlZones
    dsimp only
    split
    · refine HasRoomUp.of_moves (setComp_moves ..)
        (List.foldlRecOn _ _ (motive := HasRoomUp) room fun _ q z _ => ?_)
      split
      · exact q
      · exact correctZone_hasRoomUp _ _ _ _ q
    · exact room.of_moves (setComp_moves ..)
  · exact room

theorem restartGap_moves (h : Head) (st : StepRecord) (s : State) : Moves s (restartGap h st s) := by
  unfold restartGap
  split
  · exact setSeq_moves ..
  · exact Moves.refl s

theorem endAtEndpoint_moves (h : Head) (st : StepRecord) (reached : Bool) (s : State) :
    Moves s (endAtEndpoint h st reached s) := by
  unfold endAtEndpoint
  split
  · exact endStep_moves ..
  · exact Moves.refl s

theorem actionAfterClose_moves (before : SourceState) (s : State) : Moves s (actionAfterClose before s) := by
  unfold actionAfterClose
  split
  · exact applyAction_moves ..
  · exact Moves.refl s

theorem handClose_hasRoomUp (h : Head) (n : SweepRecord) {s : State} (room : HasRoomUp s) :
    HasRoomUp (handClose h n s) := by
  have recorded : Moves s (recordSweep h n s) := setSeq_moves ..
  unfold handClose
  split
  · split
    · exact room
    · rename_i st _
      have evaluated := (recorded.trans (restartGap_moves h st _)).trans (evaluateEndpoint_moves h st n _)
      exact (runControl_hasRoomUp h st n (room.of_moves evaluated)).of_moves
        ((endAtEndpoint_moves ..).trans (actionAfterClose_moves ..))
  · exact room.of_moves recorded
  all_goals exact room

theorem takeSample_hasRoomUp (r : SampleRecord) {s : State} (room : HasRoomUp s) : HasRoomUp (takeSample s r) := by
  unfold takeSample
  split
  · split
    · exact room
    · unfold actPosition
      dsimp only
      split
      · exact room.of_moves (setSampler_moves ..)
      · exact room.of_moves (setSampler_moves ..)
      · exact handClose_hasRoomUp _ _ (room.of_moves (setSampler_moves ..))
      · exact room
      · exact room
  · exact room

/-! Status records (R91, R111 to R114). -/

theorem echoCheck_hasRoomUp (f : Fn) (x : NodeStatus) {s : State} (room : HasRoomUp s) : HasRoomUp (echoCheck f x s) := by
  unfold echoCheck
  split
  · exact room
  · split
    · split
      · exact room
      · split
        · exact room
        · exact occurrenceWith_hasRoomUp (fun _ => takingRun_hasRoomUp) _ _ (s := s.setFn f _) room
    · exact room

theorem returnInBand_fwd (f : Fn) (s : State) : (returnInBand f s).fwd = s.fwd := by
  have same := congrArg State.fwd (returnInBand_only f s)
  exact same

theorem monitorDeviation_hasRoomUp (f : Fn) (x : NodeStatus) {s : State} (room : HasRoomUp s) :
    HasRoomUp (monitorDeviation f x s) := by
  have returned : HasRoomUp (returnInBand f s) := room.of_fwd (returnInBand_fwd f s)
  unfold monitorDeviation
  split
  · split
    · exact room
    · exact room
    · exact room
  · split
    · exact room
    · exact returned
    · exact returned

theorem armStatus_moves (x : NodeStatus) (s : State) : Moves s (armStatus x s) := by
  unfold armStatus
  split
  · exact Moves.refl s
  · split
    · exact Moves.refl s
    · split
      · split
        · exact Moves.refl s
        · exact setRun_moves ..
      · exact Moves.refl s

theorem takeStatus_hasRoomUp (node : Nat) (r : StatusRecord) {s : State} (room : HasRoomUp s) :
    HasRoomUp (takeStatus node s r) := by
  unfold takeStatus
  split
  · exact room
  · rename_i f _
    dsimp only
    have stored : HasRoomUp (s.setFn f { s.fn f with status := some r.status, ready := r.status.ready }) := room
    generalize s.setFn f { s.fn f with status := some r.status, ready := r.status.ready } = t at stored
    have checked : HasRoomUp (if t.active then echoCheck f r.status t else t) := by
      split
      · exact echoCheck_hasRoomUp f _ stored
      · exact stored
    generalize (if t.active then echoCheck f r.status t else t) = u at checked
    have monitored : HasRoomUp (if u.active && f.monitored then monitorDeviation f r.status u else u) := by
      split
      · exact monitorDeviation_hasRoomUp f _ checked
      · exact checked
    split
    · exact monitored.of_moves (armStatus_moves ..)
    · exact monitored

theorem copyFrame_hasRoomUp (frame : List Byte) {s : State} (room : HasRoomUp s) : HasRoomUp (copyFrame frame s) := by
  unfold copyFrame
  split
  · unfold takeSamples
    split
    · split
      · exact room
      · exact List.foldlRecOn _ _ (motive := HasRoomUp) room fun _ q r _ => takeSample_hasRoomUp r q
    · exact room
  · split
    · unfold takeStatuses
      split
      · exact room
      · exact List.foldlRecOn _ _ (motive := HasRoomUp) room fun _ q r _ => takeStatus_hasRoomUp _ r q
    · exact room

end Sys2Proof.Machine


namespace Sys2Proof.Machine

/-! The link of Port D (R122, R123). -/

theorem movePortD_bad_of_third {s : State} (on : s.portD.link = .online) (streak : s.portD.streak = 3) :
    movePortD (portBad s.portD) s =
      beginPresence .portDLoss none { s with portD := { s.portD with streak := 4, link := .offline 0 } } := by
  have bad : portBad s.portD = { s.portD with streak := 4, link := .offline 0 } := by simp [portBad, on, streak]
  rw [bad]
  exact movePortD_down on (by simp)

theorem movePortD_bad_of_fewer {s : State} (on : s.portD.link = .online) (streak : s.portD.streak < 3) :
    movePortD (portBad s.portD) s = { s with portD := { s.portD with streak := s.portD.streak + 1 } } := by
  have few : ¬4 ≤ s.portD.streak + 1 := by omega
  have bad : portBad s.portD = { s.portD with streak := s.portD.streak + 1, link := .online } := by
    simp only [portBad, on, if_neg few]
  have stays := movePortD_stays (s := s) (p := portBad s.portD) (iff_of_true on (by rw [bad]))
  rw [stays, bad, ← on]

theorem movePortD_bad_of_offline {s : State} {n : Nat} (off : s.portD.link = .offline n) :
    movePortD (portBad s.portD) s =
      { s with portD := { s.portD with streak := min (s.portD.streak + 1) 4, link := .offline 0 } } := by
  have bad : portBad s.portD = { s.portD with streak := min (s.portD.streak + 1) 4, link := .offline 0 } := by
    simp only [portBad, off]
  rw [bad]
  exact movePortD_stays (iff_of_false (by simp [off]) (by simp))

theorem movePortD_good_of_online {s : State} (on : s.portD.link = .online) :
    movePortD (portGood s.portD) s = { s with portD := { s.portD with streak := 0 } } := by
  have good : portGood s.portD = { s.portD with streak := 0 } := by simp only [portGood, on]
  rw [good]
  exact movePortD_stays (iff_of_true on on)

theorem movePortD_good_of_first {s : State} (off : s.portD.link = .offline 0) :
    movePortD (portGood s.portD) s = { s with portD := { s.portD with streak := 0, link := .offline 1 } } := by
  have good : portGood s.portD = { s.portD with streak := 0, link := .offline 1 } := by
    simp only [portGood, off, if_true]
  rw [good]
  exact movePortD_stays (iff_of_false (by simp [off]) (by simp))

theorem movePortD_good_of_second {s : State} (off : s.portD.link = .offline 1) :
    movePortD (portGood s.portD) s = { s with portD := { s.portD with streak := 0, link := .online } }.setSource .portDLoss
      (withoutPresence (s.source .portDLoss)) := by
  have good : portGood s.portD = { s.portD with streak := 0, link := .online } := by simp [portGood, off]
  rw [good, movePortD_up (by simp [off]) rfl]
  exact losePresence_eq ..

theorem movePortD_good_fwd (s : State) : (movePortD (portGood s.portD) s).fwd = s.fwd := by
  unfold movePortD
  dsimp only
  split
  next down =>
    -- A good frame takes no port OFFLINE.
    cases link : s.portD.link <;> simp [portGood, PortState.isOnline, link] at down
  next =>
    split
    · rw [losePresence_eq]; rfl
    · rfl

/-! A collected frame (R126). -/

theorem receiveD_of_bad {bytes : List Byte} {s : State} (bad : frameGood bytes = false) :
    receiveD bytes s = movePortD (portBad s.portD) s := by
  rw [receiveD, if_neg (by simp [bad])]

theorem receiveD_of_good {bytes : List Byte} {s : State} (good : frameGood bytes = true) :
    receiveD bytes s = acceptDown bytes (movePortD (portGood s.portD) s) := if_pos good

theorem copyFrame_of_sample {frame : List Byte} (kind : frameKind frame = 3) : copyFrame frame = takeSamples frame := by
  funext s
  exact if_pos kind

theorem copyFrame_of_status {frame : List Byte} (kind : frameKind frame = 2) : copyFrame frame = takeStatuses frame := by
  funext s
  simp [copyFrame, kind, kindSample, kindStatus]

theorem copyFrame_of_other {frame : List Byte} (notStatus : frameKind frame ≠ 2) (notSample : frameKind frame ≠ 3) :
    copyFrame frame = id := by
  funext s
  simp [copyFrame, kindSample, kindStatus, notSample, notStatus]

theorem offerUp_of_room {frame : List Byte} {s : State} (room : s.fwd.up.length < 16) :
    offerUp frame s = { s with fwd := { s.fwd with up := s.fwd.up ++ [frame] } } := if_pos room

theorem offerUp_of_full {frame : List Byte} {s : State} (full : 16 ≤ s.fwd.up.length) :
    offerUp frame s = occurrence .forwardOverflow (.queue .upbound) s := if_neg (Nat.not_lt.mpr full)

theorem acceptDown_of_room {frame : List Byte} {s : State} (room : s.fwd.up.length < 16) :
    acceptDown frame s = { copyFrame frame s with
      fwd := { (copyFrame frame s).fwd with up := (copyFrame frame s).fwd.up ++ [frame] } } := by
  rw [acceptDown, if_pos (show s.fwd.up.length < Config.upCapacity from room)]
  exact offerUp_of_room (copyFrame_hasRoomUp frame (s := s) room)

theorem acceptDown_of_full {frame : List Byte} {s : State} (full : 16 ≤ s.fwd.up.length) :
    acceptDown frame s = copyFrame frame (occurrence .forwardOverflow (.queue .upbound) (s.choicesTaken 1)) ∨
    acceptDown frame s = offerUp frame (copyFrame frame (s.choicesTaken 1)) := by
  rw [acceptDown, if_neg (show ¬s.fwd.up.length < Config.upCapacity from Nat.not_lt.mpr full)]
  split
  · exact .inl (congrArg (copyFrame frame) (offerUp_of_full (s := s.choicesTaken 1) full))
  · exact .inr rfl

/-! Samples (R30 to R47). -/

theorem takeSamples_of_other {frame : List Byte} {s : State}
    (other : s.fmap.sensor.map NodeChannel.node ≠ some (frameSource frame)) : takeSamples frame s = s := if_neg other

theorem takeSamples_of_malformed {frame : List Byte} {s : State} (malformed : recordBytes 6 (framePayload frame) = none) :
    takeSamples frame s = s := by
  unfold takeSamples
  rw [malformed]
  split <;> rfl

theorem takeStatuses_of_malformed {frame : List Byte} {s : State} (malformed : recordBytes 6 (framePayload frame) = none) :
    takeStatuses frame s = s := by
  unfold takeStatuses
  rw [malformed]

theorem takeSamples_of_sensor {frame : List Byte} {s : State} {bs : List Byte}
    (sensor : s.fmap.sensor.map NodeChannel.node = some (frameSource frame))
    (wellFormed : recordBytes 6 (framePayload frame) = some bs) :
    takeSamples frame s = (sampleRecords bs).foldl takeSample s := by
  unfold takeSamples
  rw [if_pos sensor, wellFormed]

theorem takeStatuses_of_wellFormed {frame : List Byte} {s : State} {bs : List Byte}
    (wellFormed : recordBytes 6 (framePayload frame) = some bs) :
    takeStatuses frame s = (statusRecords bs).foldl (takeStatus (frameSource frame)) s := by
  unfold takeStatuses
  rw [wellFormed]

theorem headOfCode_eq_none {n : Nat} (notA : n ≠ 1) (notB : n ≠ 2) : headOfCode n = none := by
  unfold headOfCode
  split
  · exact absurd rfl notA
  · exact absurd rfl notB
  · rfl

theorem positionOfCode_eq_none {n : Nat} (nowhere : n = 0 ∨ 3 < n) : positionOfCode n = none := by
  unfold positionOfCode
  split
  · omega
  · omega
  · omega
  · rfl

theorem takeSample_of_noSample {s : State} {r : SampleRecord}
    (none : headOfCode r.head = none ∨ positionOfCode r.position = none) : takeSample s r = s := by
  unfold takeSample
  split
  next head position => rw [head, position] at none; simp at none
  next => rfl

theorem takeSample_of_head {s : State} {r : SampleRecord} {h : Head} {position : SamplePosition} {map : List (Option Zone)}
    (head : r.head = headCode h) (placed : positionOfCode r.position = some position)
    (mapped : (s.sampler h).zoneMap = some map) :
    takeSample s r = actPosition h position (sampleValue s map r) s := by
  unfold takeSample
  simp only [head, headOfCode_headCode, placed, mapped]

theorem takeSample_of_unmapped {s : State} {r : SampleRecord} {h : Head} (head : r.head = headCode h)
    (unmapped : (s.sampler h).zoneMap = none) : takeSample s r = s := by
  unfold takeSample
  simp only [head, headOfCode_headCode]
  cases positionOfCode r.position with
  | none => rfl
  | some position => simp only [unmapped]

/-- A value that the discard tests of R33, R35 and R36 describe is the one that the sample has. -/
theorem sampleValue_unique {s : State} {map : List (Option Zone)} {r : SampleRecord} {value : Option (Zone × Nat)}
    (length : map.length = 60)
    (discarded : s.store.cal = none ∨ 600 ≤ r.radius ∨ map[r.radius / 10]? = some none → value = none)
    (stands : ∀ points z, s.store.cal = some points → r.radius < 600 → map[r.radius / 10]? = some (some z) →
      value = some (z, convertRaw points r.raw)) : value = sampleValue s map r := by
  unfold sampleValue zoneOfRadius
  cases cal : s.store.cal with
  | none => exact discarded (.inl cal)
  | some points =>
    by_cases near : r.radius < 600
    · have inside : r.radius / 10 < map.length := by omega
      have found := List.getElem?_eq_getElem inside
      rw [if_pos near, found]
      cases zone : map[r.radius / 10] with
      | none => exact discarded (.inr (.inr (found.trans (congrArg some zone))))
      | some z => exact stands points z cal near (found.trans (congrArg some zone))
    · rw [if_neg near]
      exact discarded (.inr (.inl (Nat.not_lt.mp near)))

/-! A value in its zone, and the record of a sweep (R40, R43 to R46). -/

theorem accumulate_get {sweep : PerZone ZoneSum} {z : Zone} {thick : Nat} :
    (accumulate sweep (some (z, thick))).get z =
        (if (sweep.get z).count < 65535 then
          { sum := (sweep.get z).sum + thick, count := (sweep.get z).count + 1 } else sweep.get z) ∧
      ∀ y, y ≠ z → (accumulate sweep (some (z, thick))).get y = sweep.get y := by
  by_cases room : (sweep.get z).count < 65535
  · have added : accumulate sweep (some (z, thick)) =
        sweep.set z { sum := (sweep.get z).sum + thick, count := (sweep.get z).count + 1 } := if_pos room
    rw [added, if_pos room]
    exact ⟨PerZone.get_set_same .., fun y other => PerZone.get_set_of_ne _ _ other⟩
  · have kept : accumulate sweep (some (z, thick)) = sweep := if_neg room
    rw [kept, if_neg room]
    exact ⟨rfl, fun _ _ => rfl⟩

theorem minimumSamples_of_step {s : State} {h : Head} {m : Nat} (state : (s.seq h).state ∈ [HeadState.polishing, .paused])
    (least : (s.currentStep h).map StepRecord.minSamples = some m) : minimumSamples s h = m := by
  rcases List.mem_pair.mp state with state | state <;> simp [minimumSamples, state, least]

theorem minimumSamples_of_none {s : State} {h : Head} (state : (s.seq h).state ∉ [HeadState.polishing, .paused]) :
    minimumSamples s h = 3 := by
  unfold minimumSamples
  split
  next polishing => simp [polishing] at state
  next paused => simp [paused] at state
  all_goals rfl

theorem zoneMean_of_pos {m : Nat} (pos : 1 ≤ m) (x : ZoneSum) :
    zoneMean m x = if m ≤ x.count then some { mean := x.sum / x.count, count := x.count } else none := by
  have nonzero : (m ≤ x.count ∧ x.count ≠ 0) ↔ m ≤ x.count := ⟨And.left, fun le => ⟨le, by omega⟩⟩
  simp only [zoneMean, nonzero]

theorem appendHistory_eq (history : List SweepRecord) (r : SweepRecord) :
    appendHistory history r = if history.length < 8 then history ++ [r] else history.drop 1 ++ [r] := by
  simp only [appendHistory, Config.historyCapacity, List.length_append, List.length_singleton]
  split
  next full => rw [if_neg (by omega), List.drop_append_of_le_length (by omega)]
  next room => rw [if_pos (by omega)]

theorem closeSweep_leaves {s : State} {h : Head} {sweep : PerZone ZoneSum} {m : Nat} (pos : 1 ≤ m)
    (least : minimumSamples s h = m) :
    ∃ n : SweepRecord, n.number = (if (s.sampler h).counter = 4294967295 then 1 else (s.sampler h).counter + 1) ∧
      n.closed = s.base.time ∧
      (∀ z, n.zones.get z = if m ≤ (sweep.get z).count then
        some { mean := (sweep.get z).sum / (sweep.get z).count, count := (sweep.get z).count } else none) ∧
      closeSweep h sweep s = handClose h n (s.setSampler h { s.sampler h with
        openSweep := none, counter := n.number
        history := if (s.sampler h).counter = 4294967295 then [n]
          else if (s.sampler h).history.length < 8 then (s.sampler h).history ++ [n]
          else (s.sampler h).history.drop 1 ++ [n] }) := by
  refine ⟨{ number := if (s.sampler h).counter = 4294967295 then 1 else (s.sampler h).counter + 1
            closed := s.base.time, zones := PerZone.tabulate fun z => zoneMean m (sweep.get z) }, rfl, rfl, fun z => ?_, ?_⟩
  · rw [PerZone.get_tabulate, zoneMean_of_pos pos]
  · by_cases atEnd : (s.sampler h).counter = 4294967295
    · simp [closeSweep, Config.longMax, atEnd, least, appendHistory, Config.historyCapacity]
    · simp only [closeSweep, Config.longMax, atEnd, least, appendHistory_eq, decide_false, Bool.false_eq_true, if_false]

end Sys2Proof.Machine


namespace Sys2Proof.Machine

/-! Status records (R111). -/

theorem monitored_iff {f : Fn} : f.monitored = true ↔ f ≠ .arm ∧ f ≠ .force ∧ f ≠ .disk := by
  cases f <;> simp [Fn.monitored]

theorem active_iff {s : State} : s.active = true ↔ s.mgmt.mode = .active := by simp [State.active]

theorem takeStatus_of_nobody {s : State} {node : Nat} {r : StatusRecord}
    (nobody : 7 < r.channel ∨ ∀ f, (s.fn f).assign ≠ some { node, channel := r.channel }) : takeStatus node s r = s := by
  simp only [takeStatus, fnAt_eq_none nobody]

theorem takeStatus_of_fn {s : State} {node : Nat} {r : StatusRecord} {f : Fn} (found : fnAt s node r.channel = some f) :
    ∃ t u v, t = s.setFn f { s.fn f with status := some r.status, ready := r.status.ready } ∧
      u = (if t.mgmt.mode = .active then echoCheck f r.status t else t) ∧
      v = (if u.mgmt.mode = .active ∧ f ≠ .arm ∧ f ≠ .force ∧ f ≠ .disk then monitorDeviation f r.status u else u) ∧
      takeStatus node s r = if f = .arm then armStatus r.status v else v := by
  refine ⟨_, _, _, rfl, rfl, rfl, ?_⟩
  simp only [takeStatus, found, Bool.and_eq_true, active_iff, monitored_iff]

/-! The echo check (R113). -/

theorem echoCheck_of_silent {s : State} {f : Fn} {x : NodeStatus} (silent : (s.fn f).lastTx = none ∨ x.ready = false) :
    echoCheck f x s = s := by
  unfold echoCheck
  split
  · rfl
  · rename_i sent
    rcases silent with none | unready
    · rw [none] at sent; cases sent
    · rw [if_neg (by simp [unready])]

theorem echoCheck_of_ready {s : State} {f : Fn} {x : NodeStatus} {l : LastTx} (sent : (s.fn f).lastTx = some l)
    (ready : x.ready = true) :
    echoCheck f x s = if x.applied = l.node then s.setFn f { s.fn f with echo := 0 }
      else if (s.fn f).echo + 1 < 2 then s.setFn f { s.fn f with echo := (s.fn f).echo + 1 }
      else occurrence .setpointMismatch (.mismatch f x.applied l.node) (s.setFn f { s.fn f with echo := 0 }) := by
  simp only [echoCheck, sent, ready, if_true]

/-! The deviation monitor (R114, R115). -/

theorem outOfBand_iff {s : State} {f : Fn} {x : NodeStatus} {band : Nat} (limit : (deviationLimits s.lim f).1 = band) :
    outOfBand s f x = true ↔
      ∃ l, (s.fn f).lastTx = some l ∧ (band : Int) < |(x.measured : Int) - s.offset f - l.value| := by
  unfold outOfBand
  cases sent : (s.fn f).lastTx with
  | none => simp
  | some l =>
    rw [decide_eq_true_iff, limit]
    constructor
    · intro far
      exact ⟨l, rfl, by rw [Int.abs_eq_natAbs]; exact_mod_cast far⟩
    · rintro ⟨_, ⟨⟩, far⟩
      rw [Int.abs_eq_natAbs] at far
      exact_mod_cast far

theorem deviationLimits_eq {l : LimitBlock} {f : Fn} {band dwell : Nat}
    (head : (∃ h a, f = .head h a) → band = l.pressureBand ∧ dwell = l.pressureDwell)
    (flow : f ∈ [Fn.dose1, .dose2, .dose3, .rinse] → band = l.flowBand ∧ dwell = l.flowDwell)
    (monitored : f ∉ [Fn.arm, .force, .disk]) : deviationLimits l f = (band, dwell) := by
  cases f with
  | head h a => obtain ⟨rfl, rfl⟩ := head ⟨h, a, rfl⟩; rfl
  | dose1 => obtain ⟨rfl, rfl⟩ := flow (by simp); rfl
  | dose2 => obtain ⟨rfl, rfl⟩ := flow (by simp); rfl
  | dose3 => obtain ⟨rfl, rfl⟩ := flow (by simp); rfl
  | rinse => obtain ⟨rfl, rfl⟩ := flow (by simp); rfl
  | arm => simp at monitored
  | force => simp at monitored
  | disk => simp at monitored

section Monitor

variable {s : State} {f : Fn} {x : NodeStatus}

theorem monitorDeviation_of_leaving {band dwell : Nat} (limits : deviationLimits s.lim f = (band, dwell))
    (far : outOfBand s f x = true) (inBand : (s.fn f).dev = .inBand) : monitorDeviation f x s =
      s.setFn f { s.fn f with dev := .dwell (s.base.time + BitVec.ofNat 32 dwell) } := by
  simp only [monitorDeviation, far, if_true, inBand, limits, deadlineAfter]

theorem monitorDeviation_of_out (far : outOfBand s f x = true) (out : (s.fn f).dev ≠ .inBand) :
    monitorDeviation f x s = s := by
  unfold monitorDeviation
  rw [if_pos far]
  split
  · exact absurd ‹_› out
  · rfl
  · rfl

theorem monitorDeviation_of_in (near : ¬outOfBand s f x = true) (inBand : (s.fn f).dev = .inBand) :
    monitorDeviation f x s = s := by
  unfold monitorDeviation
  rw [if_neg near, inBand]

theorem monitorDeviation_of_returning (near : ¬outOfBand s f x = true) (out : (s.fn f).dev ≠ .inBand) :
    monitorDeviation f x s = returnInBand f s := by
  unfold monitorDeviation
  rw [if_neg near]
  split
  · exact absurd ‹_› out
  · rfl
  · rfl

theorem returnInBand_of_last {k : SourceId} (last : LastDeviated s f k) :
    returnInBand f s = (s.setFn f { s.fn f with dev := .inBand }).setSource k (withoutPresence (s.source k)) := by
  unfold returnInBand
  simp only [last.1, (groupDeviated_returned last.1).mpr last, if_true]
  exact losePresence_eq ..

theorem returnInBand_of_not_last {k : SourceId} (feeds : deviationSource f = some k) (notLast : ¬LastDeviated s f k) :
    returnInBand f s = s.setFn f { s.fn f with dev := .inBand } := by
  have kept := fun loses => notLast ((groupDeviated_returned feeds).mp loses)
  unfold returnInBand
  simp only [feeds]
  exact if_neg kept

end Monitor

/-! The arm arrives (R91). -/

theorem armStatus_of_still {s : State} {x : NodeStatus} (still : ∀ run d, s.cdr.run = some run → run.phase ≠ .travel d) :
    armStatus x s = s := by
  unfold armStatus
  split
  · rfl
  · rename_i run runs
    split
    · rfl
    · rename_i d travels
      exact absurd travels (still run d runs)

theorem armArrived_iff {s : State} {run : CondRun} {x : NodeStatus} :
    armArrived s run x = true ↔
      x.ready = true ∧ |(x.measured : Int) - s.offset .arm - run.target| ≤ s.lim.armTolerance := by
  rw [armArrived, Bool.and_eq_true, decide_eq_true_iff, Int.abs_eq_natAbs]
  exact and_congr_right fun _ => by norm_cast

theorem armStatus_of_travelling {s : State} {x : NodeStatus} {run : CondRun} {d : Option Time} (runs : s.cdr.run = some run)
    (travels : run.phase = .travel d) (far : ¬armArrived s run x = true) : armStatus x s = s := by
  unfold armStatus
  simp only [runs, travels, if_neg far]

theorem armStatus_of_arrived {s : State} {x : NodeStatus} {run : CondRun} {d : Option Time} {p : CondProgram}
    {seg : Segment} (runs : s.cdr.run = some run) (travels : run.phase = .travel d) (arrived : armArrived s run x = true)
    (program : tableGet s.cdr.programs run.program = some p) (first : 1 ≤ run.segment)
    (segment : p.segments[run.segment - 1]? = some seg) :
    armStatus x s = { s with cdr := { s.cdr with
      run := some { run with phase := .dwell (s.base.time + BitVec.ofNat 32 seg.dwell) } } } := by
  have stands : segmentAt p run.segment = some seg := by rw [segmentAt, if_neg (by omega), segment]
  unfold armStatus
  simp only [runs, travels, arrived, if_true, program, Option.bind_some, stands]
  rfl

/-! Positions within a crossing (R31, R41 to R43). -/

theorem positionOfCode_eq_first {n : Nat} (first : positionOfCode n = some .first) : n = 1 := by
  unfold positionOfCode at first
  split at first
  · rfl
  · cases first
  · cases first
  · cases first

/-- Without an open sweep, MID and LAST do nothing. -/
theorem actPosition_of_closed {h : Head} {position : SamplePosition} {value : Option (Zone × Nat)} {s : State}
    (notFirst : position ≠ .first) (closed : (s.sampler h).openSweep = none) : actPosition h position value s = s := by
  cases position with
  | first => exact absurd rfl notFirst
  | mid => simp only [actPosition, closed]
  | last => simp only [actPosition, closed]

/-- Settles O23, clause by clause: the link, the frame, the payload, a sample, its zone, the sweep's close, a status record,
the echo check, the deviation monitor and the arm. -/
theorem portDCopiesAndForwards : Obligations.PortDCopiesAndForwards := by
  refine ⟨fun s => ⟨fun on => ⟨movePortD_bad_of_third on, movePortD_bad_of_fewer on, movePortD_good_of_online on⟩,
      fun n => movePortD_bad_of_offline, movePortD_good_of_first, movePortD_good_of_second⟩,
    fun bytes s runs => ⟨fun bad => event_of_running runs (receiveD_of_bad bad), fun good room => ?_,
      fun good full copy u sample status other taken => ?_⟩,
    fun frame s => ⟨takeSamples_of_other, fun malformed => ?_, fun c rest payload one eight length => ?_⟩,
    fun s r => ⟨?_, fun h head => ⟨takeSample_of_unmapped head, fun map value mapped discarded stands length => ?_⟩⟩,
    fun sweep => ⟨rfl, fun z thick => accumulate_get⟩,
    fun s h sweep m pos least => closeSweep_leaves pos ?_,
    fun s node r => ⟨takeStatus_of_nobody, fun f distinct low holds => takeStatus_of_fn (fnAt_of_assign distinct low holds)⟩,
    fun s f x => ⟨echoCheck_of_silent, fun l sent ready => ?_⟩,
    fun s f x band dwell out head flow monitored outIff => ?_,
    fun s x => ⟨armStatus_of_still, fun run d runs travels => ⟨fun away => ?_, fun p seg ready near program first segment => ?_⟩⟩⟩
  case refine_1 =>
    have room : (movePortD (portGood s.portD) s).fwd.up.length < 16 := by rw [movePortD_good_fwd]; exact room
    refine ⟨copyFrame bytes (movePortD (portGood s.portD) s), event_of_running runs ?_,
      fun sample => congrFun (copyFrame_of_sample sample) _, fun status => congrFun (copyFrame_of_status status) _,
      fun notStatus notSample => congrFun (copyFrame_of_other notStatus notSample) _⟩
    rw [receiveD_of_good good, acceptDown_of_room room]
  case refine_2 =>
    have full : 16 ≤ (movePortD (portGood s.portD) s).fwd.up.length := by rw [movePortD_good_fwd]; exact full
    have copies : copy = copyFrame bytes := by
      by_cases isSample : frameKind bytes = 3
      · rw [sample isSample, copyFrame_of_sample isSample]
      · by_cases isStatus : frameKind bytes = 2
        · rw [status isStatus, copyFrame_of_status isStatus]
        · rw [other isStatus isSample, copyFrame_of_other isStatus isSample]
    rw [copies, taken]
    exact (acceptDown_of_full full).imp (fun first => event_of_running runs ((receiveD_of_good good).trans first))
      fun second => event_of_running runs ((receiveD_of_good good).trans second)
  case refine_3 =>
    have none := recordBytes_eq_none malformed
    exact ⟨takeSamples_of_malformed none, takeStatuses_of_malformed none⟩
  case refine_4 =>
    have some : recordBytes 6 (framePayload frame) = some rest := by
      rw [payload]; exact recordBytes_eq_some one eight length
    exact ⟨fun sensor => takeSamples_of_sensor sensor some, takeStatuses_of_wellFormed some⟩
  case refine_5 =>
    rintro (⟨notA, notB⟩ | nowhere)
    · exact takeSample_of_noSample (.inl (headOfCode_eq_none notA notB))
    · exact takeSample_of_noSample (.inr (positionOfCode_eq_none nowhere))
  case refine_6 =>
    obtain rfl := sampleValue_unique length discarded stands
    have acts {position : SamplePosition} (placed : positionOfCode r.position = some position) :=
      takeSample_of_head head placed mapped
    refine ⟨fun first => (acts (position := .first) (by rw [first]; rfl)).trans ?_, fun notFirst closed => ?_, fun sweep opened =>
      ⟨fun mid => (acts (by rw [mid]; rfl)).trans ?_, fun last => (acts (by rw [last]; rfl)).trans ?_⟩⟩
    · simp only [actPosition, freshSweep]
    · cases placed : positionOfCode r.position with
      | none => exact takeSample_of_noSample (.inr placed)
      | some position => exact (acts placed).trans (actPosition_of_closed (fun first => notFirst (positionOfCode_eq_first (first ▸ placed))) closed)
    · simp only [actPosition, opened]
    · simp only [actPosition, opened]
  case refine_7 =>
    rcases least with ⟨state, least⟩ | ⟨state, rfl⟩
    · exact minimumSamples_of_step state least
    · exact minimumSamples_of_none state
  case refine_8 =>
    rw [echoCheck_of_ready sent ready]
    refine ⟨fun same => if_pos same, fun differs fresh => ?_, fun differs again => ?_⟩
    · rw [if_neg differs, if_pos (by omega), fresh]
    · rw [if_neg differs, if_neg (by omega)]
  case refine_9 =>
    have limits := deviationLimits_eq head flow monitored
    have outIff : out ↔ outOfBand s f x = true := outIff.trans (outOfBand_iff (congrArg Prod.fst limits)).symm
    rw [outIff]
    refine ⟨monitorDeviation_of_leaving limits, monitorDeviation_of_out, monitorDeviation_of_in,
      fun k near left feeds => ⟨fun deviated others => ?_, fun notLast => ?_⟩⟩
    · rw [monitorDeviation_of_returning near left, returnInBand_of_last ⟨feeds, deviated, others⟩]
    · rw [monitorDeviation_of_returning near left, returnInBand_of_not_last feeds fun last => notLast last.2]
  case refine_10 =>
    refine armStatus_of_travelling runs travels fun arrived => ?_
    obtain ⟨ready, near⟩ := armArrived_iff.mp arrived
    rcases away with unready | far
    · rw [ready] at unready; cases unready
    · omega
  case refine_11 =>
    exact armStatus_of_arrived runs travels (armArrived_iff.mpr ⟨ready, near⟩) program first segment

end Sys2Proof.Machine


/-! ## What the close of a sweep does: endpoint, control and the order of both (R51 to R66) -/

namespace Sys2Proof.Machine

/-! The correction of a zone (R62, R63). -/

section Correction

variable (c : ControlSection) (b : Bounds) (p t reference : Nat)

/-- The change toward the ideal before max step bounds it (R62). -/
def fullStep : Int := Int.tdiv (c.gain * ((p * t / reference : Nat) - (p : Int))) 256

theorem correction_unclamped : (correction c b p t reference).unclamped =
    p + max (-(c.maxStep : Int)) (min c.maxStep (fullStep c p t reference)) :=
  congrArg ((p : Int) + ·) (clampInt_eq (by omega))

theorem correction_limited : (correction c b p t reference).limited = true ↔
    c.maxStep < (fullStep c p t reference).natAbs := by
  have limited : (correction c b p t reference).limited =
      decide (clampInt (-(c.maxStep : Int)) c.maxStep (fullStep c p t reference) ≠ fullStep c p t reference) := rfl
  rw [limited, decide_eq_true_iff, clampInt_eq (by omega)]
  omega

theorem correction_clamped : (correction c b p t reference).clamped = true ↔
    (correction c b p t reference).unclamped < b.lo ∨ (b.hi : Int) < (correction c b p t reference).unclamped := by
  simp [correction]

theorem correction_after (le : b.lo ≤ b.hi) : ((correction c b p t reference).after : Int) =
    max (b.lo : Int) (min b.hi (correction c b p t reference).unclamped) := by
  have after : (correction c b p t reference).after =
      (clampInt b.lo b.hi (correction c b p t reference).unclamped).toNat := rfl
  rw [after, clampInt_eq (by omega)]
  omega

theorem fullStep_of_no_gain (none : c.gain = 0) : fullStep c p t reference = 0 := by simp [fullStep, none]

end Correction

theorem correction_within {c : ControlSection} {b : Bounds} {p t reference : Nat} (le : b.lo ≤ b.hi) :
    (correction c b p t reference).ideal = p * t / reference ∧
    ((correction c b p t reference).unclamped - p).natAbs ≤ c.maxStep ∧
    (correction c b p t reference).unclamped =
      p + max (-(c.maxStep : Int)) (min c.maxStep (fullStep c p t reference)) ∧
    ((correction c b p t reference).limited = true ↔ c.maxStep < (fullStep c p t reference).natAbs) ∧
    b.lo ≤ (correction c b p t reference).after ∧ (correction c b p t reference).after ≤ b.hi ∧
    ((b.lo : Int) ≤ (correction c b p t reference).unclamped → (correction c b p t reference).unclamped ≤ b.hi →
      (correction c b p t reference).clamped = false ∧
      ((correction c b p t reference).after : Int) = (correction c b p t reference).unclamped) ∧
    ((correction c b p t reference).unclamped < b.lo →
      (correction c b p t reference).clamped = true ∧ (correction c b p t reference).after = b.lo) ∧
    ((b.hi : Int) < (correction c b p t reference).unclamped →
      (correction c b p t reference).clamped = true ∧ (correction c b p t reference).after = b.hi) ∧
    (c.gain = 0 → (correction c b p t reference).unclamped = p) := by
  have unclamped := correction_unclamped c b p t reference
  have after := correction_after c b p t reference le
  have clamped := correction_clamped c b p t reference
  refine ⟨rfl, by omega, unclamped, correction_limited c b p t reference, by omega, by omega, fun low high => ?_,
    fun below => ⟨clamped.mpr (.inl below), by omega⟩, fun above => ⟨clamped.mpr (.inr above), by omega⟩, fun none => ?_⟩
  · exact ⟨by rw [← Bool.not_eq_true, clamped]; omega, by omega⟩
  · rw [unclamped, fullStep_of_no_gain c p t reference none]
    omega

/-! Rate, remaining thickness and finish time of a zone (R58 to R60). -/

section Rate

variable {c : ControlSection} {e : EndpointSection} {older : List SweepRecord} {n : SweepRecord} {cleared : PerZone Bool}
  {before : Nat} {z : Zone}

theorem olderRecord_of_absent (absent : ∀ x ∈ older, x.zones.get z = none) : olderRecord (older ++ [n]) z = none := by
  rw [olderRecord, List.dropLast_concat, List.findSome?_eq_none_iff]
  exact fun x stands => Option.map_eq_none_iff.mpr (absent x stands)

theorem olderRecord_of_first {pre post : List SweepRecord} {o : SweepRecord} {mo : ZoneMean} (split : older = pre ++ o :: post)
    (absent : ∀ x ∈ pre, x.zones.get z = none) (present : o.zones.get z = some mo) :
    olderRecord (older ++ [n]) z = some (o, mo) := by
  have skipped : (pre.findSome? fun r => (r.zones.get z).map fun m => (r, m)) = none :=
    List.findSome?_eq_none_iff.mpr fun x stands => Option.map_eq_none_iff.mpr (absent x stands)
  rw [olderRecord, List.dropLast_concat, split, List.findSome?_append, skipped, List.findSome?_cons, present]
  rfl

theorem rateStage_uncorrected (window : List SweepRecord) :
    (rateStage c e window n cleared before z).before = before ∧ (rateStage c e window n cleared before z).ideal = none ∧
    (rateStage c e window n cleared before z).after = none ∧
    (rateStage c e window n cleared before z).stepLimited = none ∧
    (rateStage c e window n cleared before z).boundClamped = none := by
  unfold rateStage
  split
  · exact ⟨rfl, rfl, rfl, rfl, rfl⟩
  · split
    · exact ⟨rfl, rfl, rfl, rfl, rfl⟩
    · split
      · exact ⟨rfl, rfl, rfl, rfl, rfl⟩
      · dsimp only
        split
        · exact ⟨rfl, rfl, rfl, rfl, rfl⟩
        · split
          · exact ⟨rfl, rfl, rfl, rfl, rfl⟩
          · split
            · exact ⟨rfl, rfl, rfl, rfl, rfl⟩
            · exact ⟨rfl, rfl, rfl, rfl, rfl⟩

theorem rateStage_of_no_target (window : List SweepRecord) (untargeted : (e.zones.get z).target = none) :
    rateStage c e window n cleared before z = bareEntry .noTarget before := by
  simp only [rateStage, untargeted]

variable {target : Nat} (targeted : (e.zones.get z).target = some target)

include targeted

theorem rateStage_of_cleared (window : List SweepRecord) (done : cleared.get z = true) :
    rateStage c e window n cleared before z = bareEntry .cleared before := by
  simp only [rateStage, targeted, done, if_true]

variable (uncleared : cleared.get z = false)

include uncleared

theorem rateStage_of_absent (window : List SweepRecord) (absent : n.zones.get z = none) :
    rateStage c e window n cleared before z = bareEntry .absent before := by
  simp only [rateStage, targeted, uncleared, Bool.false_eq_true, if_false, absent]

variable {m : ZoneMean} (present : n.zones.get z = some m)

include present

theorem rateStage_remaining (window : List SweepRecord) :
    (rateStage c e window n cleared before z).remaining = some (m.mean - target) := by
  unfold rateStage
  simp only [targeted, uncleared, Bool.false_eq_true, if_false, present]
  split
  · rfl
  · split
    · rfl
    · split
      · rfl
      · rfl

theorem rateStage_of_one (window : List SweepRecord) (alone : olderRecord window z = none) :
    rateStage c e window n cleared before z =
      { bareEntry .oneRecord before with remaining := some (m.mean - target) } := by
  simp only [rateStage, targeted, uncleared, Bool.false_eq_true, if_false, present, alone]

variable {o : SweepRecord} {mo : ZoneMean} {window : List SweepRecord} (found : olderRecord window z = some (o, mo))

include found

theorem rateStage_of_zero (zero : (n.closed - o.closed).toNat = 0) :
    rateStage c e window n cleared before z =
      { bareEntry .zeroInterval before with remaining := some (m.mean - target), oNumber := some o.number } := by
  simp only [rateStage, targeted, uncleared, Bool.false_eq_true, if_false, present, found, elapsed, zero, if_true]

theorem rateStage_of_rate {dt : Nat} {rate : Int} (interval : dt = (n.closed - o.closed).toNat) (nonzero : dt ≠ 0)
    (removal : rate = Int.tdiv (((mo.mean : Int) - m.mean) * 1000) dt) :
    rateStage c e window n cleared before z = if rate < c.minRate then
        { bareEntry .slow before with remaining := some (m.mean - target), oNumber := some o.number, rate := some rate }
      else { bareEntry .corrected before with
        remaining := some (m.mean - target), oNumber := some o.number, rate := some rate
        finish := some (min ((m.mean - target) * 1000 / rate.toNat) 3600000) } := by
  subst interval removal
  simp only [rateStage, targeted, uncleared, Bool.false_eq_true, if_false, present, found, elapsed]
  exact if_neg nonzero

end Rate

/-! Control of all zones (R58 to R66). -/

section Control

variable (h : Head) (st : StepRecord) (c : ControlSection) (e : EndpointSection) (n : SweepRecord) (s : State)

/-- The last computation before any correction (R66). -/
def rateComputation : Computation :=
  { number := n.number, closed := n.closed
    window := (controlWindow c.depth (s.sampler h).history).length
    outcome := controlOutcome (referenceTime (rateStages h c e n s))
    reference := referenceTime (rateStages h c e n s), zones := rateStages h c e n s }

/-- The zones of the last computation after the corrections (R66). -/
def correctedZones (reference : Nat) : PerZone ZoneEntry :=
  PerZone.tabulate fun z =>
    match zoneCorrection c st reference ((rateStages h c e n s).get z) z with
    | none => (rateStages h c e n s).get z
    | some k => correctedEntry ((rateStages h c e n s).get z) k

variable {h st c e n s}

theorem rateStages_get (z : Zone) : (rateStages h c e n s).get z =
    rateStage c e ((s.sampler h).history.drop ((s.sampler h).history.length - c.depth)) n (s.seq h).cleared
      (((s.seq h).commanded.get (.zone z)).getD Config.absentPressure) z := PerZone.get_tabulate ..

theorem controlOutcome_of_pos {t : Nat} (pos : t ≠ 0) : controlOutcome (some t) = .applied := by
  cases t with
  | zero => exact absurd rfl pos
  | succ t => rfl

theorem controlZones_of_few (few : referenceTime (rateStages h c e n s) = none) :
    controlZones h st c e n s = s.setComp h (some (rateComputation h c e n s)) := by
  simp only [controlZones, rateComputation, few, controlOutcome]

theorem controlZones_of_zero (zero : referenceTime (rateStages h c e n s) = some 0) :
    controlZones h st c e n s = s.setComp h (some (rateComputation h c e n s)) := by
  simp only [controlZones, rateComputation, zero, controlOutcome]

theorem controlZones_of_pos {t : Nat} (found : referenceTime (rateStages h c e n s) = some t) (pos : t ≠ 0) :
    controlZones h st c e n s =
      (correctZones h (rateStages h c e n s)
        (PerZone.tabulate fun z => zoneCorrection c st t ((rateStages h c e n s).get z) z) s).setComp h
        (some { rateComputation h c e n s with zones := correctedZones h st c e n s t }) := by
  simp only [controlZones, rateComputation, correctedZones, found, controlOutcome_of_pos pos, PerZone.get_tabulate] <;> rfl

theorem controlZones_comp : ∃ zones,
    (controlZones h st c e n s).comp h = some { rateComputation h c e n s with zones } := by
  cases found : referenceTime (rateStages h c e n s) with
  | none => exact ⟨_, by rw [controlZones_of_few found, State.comp_setComp_same]⟩
  | some t =>
    by_cases zero : t = 0
    · exact ⟨_, by rw [controlZones_of_zero (zero ▸ found), State.comp_setComp_same]⟩
    · exact ⟨_, by rw [controlZones_of_pos found zero, State.comp_setComp_same]⟩

theorem finishTimes_eq (zones : PerZone ZoneEntry) :
    finishTimes zones = [Zone.z1, .z2, .z3, .z4, .z5, .z6].filterMap fun z => (zones.get z).finish :=
  List.filterMap_map ..

theorem referenceTime_of_few {zones : PerZone ZoneEntry} (few : (finishTimes zones).length < 2) :
    referenceTime zones = none := if_neg (Nat.not_le.mpr few)

theorem referenceTime_of_two {zones : PerZone ZoneEntry} (two : 2 ≤ (finishTimes zones).length) :
    referenceTime zones = some ((finishTimes zones).sum / (finishTimes zones).length) := if_pos two

theorem zoneCorrection_eq {reference : Nat} {x : ZoneEntry} {z : Zone} {k : Correction}
    (given : ∀ t, x.finish = some t → k = correction c (st.bounds.get (.zone z)) x.before t reference) :
    zoneCorrection c st reference x z = x.finish.map fun _ => k := by
  unfold zoneCorrection
  cases finish : x.finish with
  | none => rfl
  | some t => rw [given t finish]; rfl

theorem correctZones_eq {entries : PerZone ZoneEntry} {ks : PerZone (Option Correction)} {k : Zone → Correction}
    (given : ∀ z, ks.get z = (entries.get z).finish.map fun _ => k z) :
    correctZones h entries ks s = [Zone.z1, .z2, .z3, .z4, .z5, .z6].foldl (fun t z =>
      if (entries.get z).finish = none then t else correctZone h z (entries.get z).before (k z) t) s := by
  have same : (fun t z => match ks.get z with
      | none => t
      | some k => correctZone h z (entries.get z).before k t) = fun t z =>
      if (entries.get z).finish = none then t else correctZone h z (entries.get z).before (k z) t := by
    funext t z
    rw [given z]
    cases (entries.get z).finish with
    | none => rfl
    | some f => rfl
  exact congrArg (fun f => List.foldl f s Zone.all) same

theorem correctedZones_get {reference : Nat} {k : Zone → Correction} {z : Zone}
    (given : zoneCorrection c st reference ((rateStages h c e n s).get z) z =
      ((rateStages h c e n s).get z).finish.map fun _ => k z) :
    (correctedZones h st c e n s reference).get z = if ((rateStages h c e n s).get z).finish = none then
      (rateStages h c e n s).get z else correctedEntry ((rateStages h c e n s).get z) (k z) := by
  rw [correctedZones, PerZone.get_tabulate, given]
  cases ((rateStages h c e n s).get z).finish with
  | none => rfl
  | some f => rfl

end Control

end Sys2Proof.Machine


namespace Sys2Proof.Machine

/-! A corrected zone (R63, R64). -/

theorem correctZone_of_same {s u : State} {h : Head} {z : Zone} {p : Nat} {k : Correction}
    (reported : u = if k.clamped then occurrenceWith takingRunInClose .limitReached (.limit h z k.unclamped) s else s)
    (same : k.after = p) : correctZone h z p k s = u := by
  rw [reported]
  exact if_pos same

theorem correctZone_of_changed {s u : State} {h : Head} {z : Zone} {p : Nat} {k : Correction}
    (reported : u = if k.clamped then occurrenceWith takingRunInClose .limitReached (.limit h z k.unclamped) s else s)
    (changed : k.after ≠ p) : correctZone h z p k s = writeSlot (.head h (.zone z)) k.after
      (u.setSeq h { u.seq h with commanded := (u.seq h).commanded.set (.zone z) (some k.after) }) := by
  rw [reported]
  exact if_neg changed

/-! A zone at the endpoint evaluation (R54, R55). -/

section Visit

variable (s : State) (h : Head) (st : StepRecord) (e : EndpointSection) (n : SweepRecord) (z : Zone)

/-- The zone is cleared, and the event tells of it (R55). -/
def zoneCleared : State :=
  queueEvent .zoneCleared (some h) [dv (zoneCode z)] (s.setSeq h { s.seq h with cleared := (s.seq h).cleared.set z true })

theorem zoneCleared_commanded : ((zoneCleared s h z).seq h).commanded = (s.seq h).commanded := by
  rw [zoneCleared, queueEvent_seq, State.seq_setSeq_same]

theorem clearZone_of_none : clearZone h st z none s = zoneCleared s h z := rfl

theorem clearZone_of_some (p : Nat) : clearZone h st z (some p) s =
    if (s.seq h).commanded.get (.zone z) = some (clampNat (st.bounds.get (.zone z)).lo (st.bounds.get (.zone z)).hi p) then
      zoneCleared s h z
    else writeSlot (.head h (.zone z)) (clampNat (st.bounds.get (.zone z)).lo (st.bounds.get (.zone z)).hi p)
      ((zoneCleared s h z).setSeq h { (zoneCleared s h z).seq h with
        commanded := ((zoneCleared s h z).seq h).commanded.set (.zone z)
          (some (clampNat (st.bounds.get (.zone z)).lo (st.bounds.get (.zone z)).hi p)) }) := by
  rw [← zoneCleared_commanded s h z]
  rfl

variable {s h st e n z}

theorem visitZone_of_unconcerned (unconcerned : (e.zones.get z).target = none ∨ n.zones.get z = none ∨
    (s.seq h).cleared.get z = true) : visitZone h st e n s z = s := by
  unfold visitZone
  split
  next target m targeted present =>
    rw [targeted, present] at unconcerned
    exact if_pos (by simpa using unconcerned)
  next => rfl

variable {target : Nat} {m : ZoneMean} (targeted : (e.zones.get z).target = some target)
  (present : n.zones.get z = some m) (uncleared : (s.seq h).cleared.get z = false)

include targeted present uncleared

theorem visitZone_of_above (above : target + e.margin < m.mean) :
    visitZone h st e n s z = s.setSeq h { s.seq h with confirm := (s.seq h).confirm.set z 0 } := by
  simp only [visitZone, targeted, present, uncleared, Bool.false_eq_true, if_false]
  exact if_neg (Nat.not_le.mpr above)

theorem visitZone_of_confirmed (below : m.mean ≤ target + e.margin) (few : (s.seq h).confirm.get z + 1 < e.confirm) :
    visitZone h st e n s z =
      s.setSeq h { s.seq h with confirm := (s.seq h).confirm.set z ((s.seq h).confirm.get z + 1) } := by
  simp only [visitZone, targeted, present, uncleared, Bool.false_eq_true, if_false]
  exact (if_pos below).trans (if_neg (Nat.not_le.mpr few))

theorem visitZone_of_reached (below : m.mean ≤ target + e.margin) (enough : e.confirm ≤ (s.seq h).confirm.get z + 1) :
    visitZone h st e n s z = clearZone h st z (e.zones.get z).cleared
      (s.setSeq h { s.seq h with confirm := (s.seq h).confirm.set z ((s.seq h).confirm.get z + 1) }) := by
  simp only [visitZone, targeted, present, uncleared, Bool.false_eq_true, if_false]
  exact (if_pos below).trans (if_pos enough)

end Visit

/-- Confirm count and cleared set of a zone that reaches its confirm count are one write (R55). -/
theorem zoneCleared_setSeq (s : State) (h : Head) (z : Zone) (q : Sequencer) :
    zoneCleared (s.setSeq h q) h z = queueEvent .zoneCleared (some h) [BitVec.ofNat 32 (zoneCode z)]
      (s.setSeq h { q with cleared := q.cleared.set z true }) := by
  rw [zoneCleared, State.seq_setSeq_same, State.setSeq_setSeq]
  rfl

/-! The head endpoint (R56). -/

theorem endpointReached_iff {h : Head} {e : EndpointSection} {s t : State} :
    endpointReached h e s t = true ↔ (t.seq h).cleared ≠ (s.seq h).cleared ∧
      ∀ z, (e.zones.get z).target ≠ none → (t.seq h).cleared.get z = true := by
  have every (z : Zone) : z ∈ Zone.all := by cases z <;> decide
  have all : allCleared e (t.seq h).cleared = true ↔
      ∀ z, (e.zones.get z).target ≠ none → (t.seq h).cleared.get z = true := by
    simp only [allCleared, List.all_eq_true, Bool.or_eq_true, Option.isNone_iff_eq_none]
    exact ⟨fun each z targeted => (each z (every z)).resolve_left targeted,
      fun each z _ => or_iff_not_imp_left.mpr (each z)⟩
  rw [endpointReached, Bool.and_eq_true, decide_eq_true_iff, all, ne_comm]

theorem evaluateEndpoint_of_none {s : State} {h : Head} {st : StepRecord} {n : SweepRecord} (none : st.endpoint = none) :
    evaluateEndpoint h st n s = (s, false) := by
  simp only [evaluateEndpoint, none]

theorem evaluateEndpoint_of_some {s t : State} {h : Head} {st : StepRecord} {n : SweepRecord} {e : EndpointSection}
    (given : st.endpoint = some e) (visited : t = [Zone.z1, .z2, .z3, .z4, .z5, .z6].foldl (visitZone h st e n) s) :
    evaluateEndpoint h st n s =
      if endpointReached h e s t then (queueEvent .headEndpoint (some h) [] t, true) else (t, false) := by
  subst visited
  simp only [evaluateEndpoint, given]
  rfl

/-! The order of a close (R14, R47, R51). -/

theorem handClose_of_other {s : State} {h : Head} {n : SweepRecord}
    (other : (s.seq h).state ∉ [HeadState.polishing, .paused]) : handClose h n s = s := by
  unfold handClose
  split
  next polishing => simp [polishing] at other
  next paused => simp [paused] at other
  all_goals rfl

theorem handClose_of_paused {s : State} {h : Head} (n : SweepRecord) (paused : (s.seq h).state = .paused) :
    handClose h n s = s.setSeq h { s.seq h with
      current := (s.seq h).current.map fun c => { c with sweeps := n.number } } := by
  have records : handClose h n s = recordSweep h n s := by simp only [handClose, paused]
  exact records

theorem handClose_of_polishing {s : State} {h : Head} {st : StepRecord} (n : SweepRecord)
    (polishing : (s.seq h).state = .polishing) (current : s.currentStep h = some st) :
    handClose h n s = polishingClose h st n s := by
  simp only [handClose, polishing, current]

theorem restartGap_recordSweep (h : Head) (st : StepRecord) (n : SweepRecord) (s : State) :
    restartGap h st (recordSweep h n s) = s.setSeq h { s.seq h with
      current := (s.seq h).current.map fun c => { c with sweeps := n.number }
      gap := if st.control ≠ none ∨ st.endpoint ≠ none then
        some (s.base.time + BitVec.ofNat 32 s.lim.sampleGapTimeout) else (s.seq h).gap } := by
  have watches : st.watched = true ↔ st.control ≠ none ∨ st.endpoint ≠ none := by
    simp [StepRecord.watched, Option.isSome_iff_ne_none]
  by_cases watched : st.watched = true
  · have gap : freshGap (recordSweep h n s) st = some (s.base.time + BitVec.ofNat 32 s.lim.sampleGapTimeout) :=
      if_pos watched
    rw [restartGap, if_pos watched, gap, if_pos (watches.mp watched), recordSweep, State.seq_setSeq_same,
      State.setSeq_setSeq]
  · rw [restartGap, if_neg watched, if_neg (fun some => watched (watches.mpr some))]
    rfl

theorem runControl_of_both {h : Head} {st : StepRecord} {c : ControlSection} {e : EndpointSection} (n : SweepRecord)
    (s : State) (control : st.control = some c) (endpoint : st.endpoint = some e) :
    runControl h st n s = controlZones h st c e n s := by
  simp only [runControl, control, endpoint]

theorem runControl_of_missing {h : Head} {st : StepRecord} (n : SweepRecord) (s : State)
    (missing : st.control = none ∨ st.endpoint = none) : runControl h st n s = s := by
  unfold runControl
  split
  next control endpoint => rw [control, endpoint] at missing; simp at missing
  next => rfl

theorem endAtEndpoint_eq (h : Head) (st : StepRecord) (reached : Bool) (s : State) :
    endAtEndpoint h st reached s = if reached = true ∧ st.endMode ≠ .time then endStep h .endpoint s else s := by
  simp only [endAtEndpoint, Bool.and_eq_true, decide_eq_true_iff]

end Sys2Proof.Machine


namespace Sys2Proof.Machine

/-- The rate stage over a zone that is a candidate (R59, R60). -/
theorem rateStage_of_candidate {c : ControlSection} {e : EndpointSection} {older : List SweepRecord} {n : SweepRecord}
    {cleared : PerZone Bool} {before : Nat} {z : Zone} {target : Nat} {m : ZoneMean}
    (targeted : (e.zones.get z).target = some target) (uncleared : cleared.get z = false)
    (present : n.zones.get z = some m) {entry : ZoneEntry}
    (stage : entry = rateStage c e (older ++ [n]) n cleared before z) :
    entry.remaining = some (m.mean - target) ∧
    ((∀ x ∈ older, x.zones.get z = none) →
      entry.status = .oneRecord ∧ entry.oNumber = none ∧ entry.rate = none ∧ entry.finish = none) ∧
    (∀ (pre post : List SweepRecord) (o : SweepRecord) (mo : ZoneMean) (dt : Nat) (rate : Int),
      older = pre ++ o :: post → (∀ x ∈ pre, x.zones.get z = none) → o.zones.get z = some mo →
      dt = (n.closed - o.closed).toNat → rate = Int.tdiv (((mo.mean : Int) - m.mean) * 1000) dt →
      entry.oNumber = some o.number ∧
      (dt = 0 → entry.status = .zeroInterval ∧ entry.rate = none ∧ entry.finish = none) ∧
      (dt ≠ 0 → rate < c.minRate → entry.status = .slow ∧ entry.rate = some rate ∧ entry.finish = none) ∧
      (dt ≠ 0 → (c.minRate : Int) ≤ rate → entry.status = .corrected ∧ entry.rate = some rate ∧
        entry.finish = some (min ((m.mean - target) * 1000 / rate.toNat) 3600000))) := by
  refine ⟨stage ▸ rateStage_remaining targeted uncleared present _, fun absent => ?_,
    fun pre post o mo dt rate split absent stands interval removal => ?_⟩
  · rw [stage, rateStage_of_one targeted uncleared present _ (olderRecord_of_absent absent)]
    exact ⟨rfl, rfl, rfl, rfl⟩
  · have found := olderRecord_of_first (n := n) split absent stands
    by_cases zero : dt = 0
    · rw [stage, rateStage_of_zero targeted uncleared present found (interval ▸ zero)]
      exact ⟨rfl, fun _ => ⟨rfl, rfl, rfl⟩, fun nonzero => absurd zero nonzero, fun nonzero => absurd zero nonzero⟩
    · rw [stage, rateStage_of_rate targeted uncleared present found interval zero removal]
      by_cases slow : rate < c.minRate
      · rw [if_pos slow]
        exact ⟨rfl, fun none => absurd none zero, fun _ _ => ⟨rfl, rfl, rfl⟩, fun _ fast => absurd slow (Int.not_lt.mpr fast)⟩
      · rw [if_neg slow]
        exact ⟨rfl, fun none => absurd none zero, fun _ isSlow => absurd isSlow slow, fun _ _ => ⟨rfl, rfl, rfl⟩⟩

/-- The three outcomes of control (R61 to R66), with the last computation `made` that each leaves. -/
theorem controlZones_leaves {s : State} {h : Head} {st : StepRecord} {c : ControlSection} {e : EndpointSection}
    {n : SweepRecord} {entries : PerZone ZoneEntry} {times : List Nat} {made : Computation}
    (stages : entries = rateStages h c e n s) (finishes : times = finishTimes entries)
    (leaves : (controlZones h st c e n s).comp h = some made) :
    (times.length < 2 → made.outcome = .tooFew ∧ made.reference = none ∧ made.zones = entries ∧
      controlZones h st c e n s = s.setComp h (some made)) ∧
    (2 ≤ times.length → times.sum / times.length = 0 →
      made.outcome = .noReference ∧ made.reference = some 0 ∧ made.zones = entries ∧
      controlZones h st c e n s = s.setComp h (some made)) ∧
    (∀ k : Zone → Correction, 2 ≤ times.length → times.sum / times.length ≠ 0 →
      (∀ z t, (entries.get z).finish = some t →
        k z = correction c (st.bounds.get (.zone z)) (entries.get z).before t (times.sum / times.length)) →
      made.outcome = .applied ∧ made.reference = some (times.sum / times.length) ∧
      (∀ z, ((entries.get z).finish = none → made.zones.get z = entries.get z) ∧
        ((entries.get z).finish ≠ none → made.zones.get z = { entries.get z with
          ideal := some (k z).ideal, after := some (k z).after, stepLimited := some (k z).limited
          boundClamped := some (k z).clamped })) ∧
      controlZones h st c e n s =
        ([Zone.z1, .z2, .z3, .z4, .z5, .z6].foldl (fun t z =>
          if (entries.get z).finish = none then t else correctZone h z (entries.get z).before (k z) t) s).setComp h
            (some made)) := by
  subst stages finishes
  refine ⟨fun few => ?_, fun two zero => ?_, fun k two pos given => ?_⟩
  · have none := referenceTime_of_few few
    have eq := controlZones_of_few (st := st) none
    rw [eq, State.comp_setComp_same, Option.some_inj] at leaves
    subst leaves
    exact ⟨congrArg controlOutcome none, none, rfl, eq⟩
  · have found := referenceTime_of_two two
    rw [zero] at found
    have eq := controlZones_of_zero (st := st) found
    rw [eq, State.comp_setComp_same, Option.some_inj] at leaves
    subst leaves
    exact ⟨congrArg controlOutcome found, found, rfl, eq⟩
  · have found := referenceTime_of_two two
    have same (z : Zone) := zoneCorrection_eq (z := z) (given z)
    have eq := controlZones_of_pos (st := st) found pos
    rw [eq, State.comp_setComp_same, Option.some_inj] at leaves
    subst leaves
    refine ⟨(congrArg controlOutcome found).trans (controlOutcome_of_pos pos), found, fun z => ⟨fun none => ?_, fun some => ?_⟩, ?_⟩
    · exact (correctedZones_get (same z)).trans (if_pos none)
    · exact (correctedZones_get (same z)).trans (if_neg some)
    · rw [eq, correctZones_eq fun z => (PerZone.get_tabulate ..).trans (same z)]

/-- Settles O44: the correction's arithmetic, the rate stage, control, a corrected zone, the endpoint's visit of a zone, the
head endpoint, and the order of a close. -/
theorem correctionsStayWithinBounds : Obligations.CorrectionsStayWithinBounds := by
  refine ⟨fun c b p t reference le _ => correction_within le,
    fun c e older n cleared before z entry stage => ⟨stage ▸ rateStage_uncorrected _, fun untargeted => ?_,
      fun target targeted => ⟨fun done => ?_, fun uncleared absent => ?_, fun m uncleared present =>
        rateStage_of_candidate targeted uncleared present stage⟩⟩,
    fun s h st c e n window entries times made isWindow stages finishes leaves => ?_,
    fun s h st c e n none => ?_,
    fun s u h z p k reported => ⟨correctZone_of_same reported, correctZone_of_changed reported⟩,
    fun s h st e n z => ⟨visitZone_of_unconcerned, fun target m targeted present uncleared =>
      ⟨visitZone_of_above targeted present uncleared, visitZone_of_confirmed targeted present uncleared,
        fun u below enough told => ?_⟩⟩,
    fun s h st n => ⟨evaluateEndpoint_of_none, fun e t given visited => ?_⟩,
    fun s h n => ⟨handClose_of_other, handClose_of_paused n, fun st polishing current => ?_⟩⟩
  case refine_1 => rw [stage, rateStage_of_no_target _ untargeted]
  case refine_2 => rw [stage, rateStage_of_cleared targeted _ done]
  case refine_3 => rw [stage, rateStage_of_absent targeted uncleared _ absent]
  case refine_4 =>
    subst isWindow
    have rates : entries = rateStages h c e n s :=
      PerZone.ext_get fun z => (stages z).trans (rateStages_get z).symm
    obtain ⟨zones, comp⟩ := controlZones_comp (h := h) (st := st) (c := c) (e := e) (n := n) (s := s)
    obtain rfl := Option.some.inj (comp.symm.trans leaves)
    exact ⟨rfl, rfl, rfl, controlZones_leaves rates (finishes.trans (finishTimes_eq entries).symm) leaves⟩
  case refine_5 =>
    obtain ⟨zones, comp⟩ := controlZones_comp (h := h) (st := st) (c := c) (e := e) (n := n) (s := s)
    rw [comp] at none
    cases none
  case refine_6 =>
    have reaches := visitZone_of_reached (st := st) targeted present uncleared below enough
    have cleared : zoneCleared (s.setSeq h { s.seq h with
        confirm := (s.seq h).confirm.set z ((s.seq h).confirm.get z + 1) }) h z = u :=
      (zoneCleared_setSeq ..).trans told.symm
    refine ⟨fun none => ?_, fun p v some isV => ?_⟩
    · rw [reaches, none, clearZone_of_none, cleared]
    · rw [reaches, some, clearZone_of_some, cleared, State.seq_setSeq_same, ← isV]
      exact ⟨fun same => if_pos same, fun differs => if_neg differs⟩
  case refine_7 =>
    rw [evaluateEndpoint_of_some given visited, ← endpointReached_iff]
    exact ⟨fun reached => if_pos reached, fun unreached => if_neg unreached⟩
  case refine_8 =>
    have order := handClose_of_polishing n polishing current
    rw [polishingClose_eq, restartGap_recordSweep, endAtEndpoint_eq] at order
    exact ⟨_, _, _, _, _, rfl, rfl, fun c e => runControl_of_both n _, runControl_of_missing n _, rfl, order⟩

end Sys2Proof.Machine
